-- ==== Sys2Proof/Word.lean ====
section
/-! DEFINITION. The word types of the block (10_state.md R20, 30_encoding.md R80). Bit 0 is the least
significant bit (00_scope.md R9). -/

namespace Sys2Proof

/-- A 32-bit command word, timestamp or read value (R80, R62, R23). -/
abbrev Word := BitVec 32

/-- A 12-bit sample or conditioned value, 0..4095 (R20, R27). -/
abbrev Sample := BitVec 12

/-- One byte of a byte-serial platform link (R64). -/
abbrev Byte := BitVec 8

end Sys2Proof
end

