-- ==== Sys2Proof/Config.lean ====
section
/-! DEFINITION. The configuration record of 00_scope.md R7: what an implementation fixes at build time, and the
one open parameter of the spec. The values this hardware takes stand in Sys2Proof/Machine/Params.lean. -/

namespace Sys2Proof

/-- The two readings of the bake OFF condition (43_oven_controller.md R167, D27, I4). -/
inductive OffRule where
  /-- OFF above `SP + HYST_TEMP`, hold inside the dead band. -/
  | band
  /-- OFF whenever `TEMP >= SP - HYST_TEMP`. -/
  | threshold
deriving DecidableEq, Repr

/-- `GATE_MODE` (44_power_arbiter.md R198, I1): only the faithful no-op gating is admitted (assumption 7). -/
inductive GateMode where
  /-- `PCA` is computed and stored, and gates nothing. -/
  | faithful
deriving DecidableEq, Repr

/-- The constants of R7, each a field so that a corrected constant changes this record and no rule (D43).
`N_SAMPLES` and `CLOCK_BITS` fix shapes as well: a ring buffer has `nSamples` slots and a
timestamp `clockBits` bits, in the types that take the record as an argument (Sys2Proof/Machine/State.lean). -/
structure Config where
  /-- `N_BURNERS`: how many of the two channels of R2 a tick controls and bills (assumption 7) -/
  nBurners : Nat
  /-- `N_SAMPLES`: the window length, the number of ring-buffer slots -/
  nSamples : Nat
  /-- `ADC_MAX` -/
  adcMax : Nat
  /-- `DUTY_MAX` -/
  dutyMax : Nat
  /-- `HYST_DUTY` -/
  hystDuty : Nat
  /-- `HYST_TEMP` -/
  hystTemp : Nat
  /-- `CYCLE_MS` -/
  cycleMs : Nat
  /-- `DEBOUNCE_MS` -/
  debounceMs : Nat
  /-- `MAX_GRID_W` -/
  maxGridW : Nat
  /-- `MAX_BATT_W` -/
  maxBattW : Nat
  /-- `W_PER_DUTY` -/
  wPerDuty : Nat
  /-- `OVEN_STEP` -/
  ovenStep : Nat
  /-- `OVEN_MAX` -/
  ovenMax : Nat
  /-- `OVEN_BROIL_W` -/
  ovenBroilW : Nat
  /-- `OVEN_BAKE_W` -/
  ovenBakeW : Nat
  /-- `OVEN_BROIL_DUTY` -/
  ovenBroilDuty : Nat
  /-- `OVEN_BAKE_DUTY` -/
  ovenBakeDuty : Nat
  /-- `CLOCK_BITS`: the width of the clock and of every timestamp (R11) -/
  clockBits : Nat
  /-- `TEMP_CONV`: conditioned oven-sensor value to a signed temperature in degrees F (R162) -/
  tempConv : Sample → BitVec 16
  /-- `OVEN_OFF_RULE` -/
  ovenOffRule : OffRule
  /-- `GATE_MODE` -/
  gateMode : GateMode

/-- The sensor's transfer function, which no source gives (R162, D26, I3, N23): a free value. It has no body, so
nothing can be proved of it but that its result depends on the conditioned value alone (assumption 3). -/
opaque Config.sensorTransfer : Sample → BitVec 16

end Sys2Proof
end

