-- ==== Sys2Proof/Machine/Params.lean ====
section
/-! DEFINITION. The values this hardware takes for the configuration record (00_scope.md R7). -/

namespace Sys2Proof.Machine

/-- R7's table as this hardware has it. `TEMP_CONV` is the open parameter (assumption 3); `OVEN_OFF_RULE` is `BAND`, the
value R7 gives (assumption 6). -/
@[reducible] def config : Config where
  nBurners := 2
  nSamples := 10
  adcMax := 4095
  dutyMax := 30
  hystDuty := 2
  hystTemp := 2
  cycleMs := 30000
  debounceMs := 50
  maxGridW := 1500
  maxBattW := 3000
  wPerDuty := 100
  ovenStep := 25
  ovenMax := 550
  ovenBroilW := 3000
  ovenBakeW := 2585
  ovenBroilDuty := 40
  ovenBakeDuty := 30
  clockBits := 32
  tempConv := Config.sensorTransfer
  ovenOffRule := .band
  gateMode := .faithful

/-- `OVEN_STEPS = OVEN_MAX / OVEN_STEP` (R7). -/
def ovenSteps (cfg : Config) : Nat := cfg.ovenMax / cfg.ovenStep

/-- `MAX_SUPPLY_W = MAX_GRID_W + MAX_BATT_W` (R7). -/
def maxSupplyW (cfg : Config) : Nat := cfg.maxGridW + cfg.maxBattW

end Sys2Proof.Machine
end

