-- ==== Sys2Proof/Syntax.lean ====
section
/-! DEFINITION. The commands of the block (30_encoding.md R82), one constructor for each row of
spec/opcode_table.json, and the assembler's statements (R88, R89) before their operands are checked. -/

namespace Sys2Proof

/-- The four analog latches that the `SEL` field of SETIN selects (10_state.md R22, 30_encoding.md R83). -/
inductive InputSel where
  /-- `IN[0]`, burner 0 potentiometer -/
  | burner0
  /-- `IN[1]`, burner 1 potentiometer -/
  | burner1
  /-- `IN[2]`, oven potentiometer -/
  | ovenPot
  /-- `IN[3]`, oven temperature sensor -/
  | ovenTemp
deriving DecidableEq, Repr

/-- The nine opcodes of R82, by name. -/
inductive Opcode where
  | nop | setin | settl | setth | tick | rdreg | start | clrerr | rst
deriving DecidableEq, Repr

/-- The nine commands with their operands (R82, R83). -/
inductive Instr where
  /-- NOP (R211) -/
  | nop
  /-- SETIN (R212): latch and unclamped 16-bit sample -/
  | setin (sel : InputSel) (val : BitVec 16)
  /-- SETTL (R213): low half of `NOW` -/
  | settl (val : BitVec 16)
  /-- SETTH (R214): high half of `NOW` -/
  | setth (val : BitVec 16)
  /-- TICK (R215) -/
  | tick
  /-- RDREG (R218): register index -/
  | rdreg (idx : BitVec 8)
  /-- START (R220): SINK_OK -/
  | start (sinkOk : Bool)
  /-- CLRERR (R221) -/
  | clrerr
  /-- RST (R222) -/
  | rst
deriving DecidableEq, Repr

/-- The opcode of a command. -/
def Instr.opcode : Instr → Opcode
  | .nop => .nop
  | .setin _ _ => .setin
  | .settl _ => .settl
  | .setth _ => .setth
  | .tick => .tick
  | .rdreg _ => .rdreg
  | .start _ => .start
  | .clrerr => .clrerr
  | .rst => .rst

/-- A statement of the assembler (R88), pseudo-instruction or directive (R89), with operands as written: numbers
that may be out of range. Sys2Proof/WellFormed.lean says which statements the assembler accepts. -/
inductive AsmStmt where
  | nop
  | setin (ch val : Nat)
  | settl (val : Nat)
  | setth (val : Nat)
  | tick
  | rdreg (idx : Nat)
  | start (ok : Nat)
  | clrerr
  | rst
  /-- `settime <t32>` -/
  | settime (t : Nat)
  /-- `tickat <t32>` -/
  | tickat (t : Nat)
  /-- `sample <v0>, <v1>, <vp>, <vt>` -/
  | sample (v0 v1 vp vt : Nat)
  /-- `.word <u32>`: a word as given, legal or not -/
  | word (u : Nat)
deriving DecidableEq, Repr

end Sys2Proof
end

