-- ==== Sys2Proof/Machine/State.lean ====
section
/-! DEFINITION. The state of the block: the elements of 10_state.md R20, and the model's own list of pending host
events. Its parts take the configuration record as an argument; `State` is the machine of this hardware's
configuration. The reasons a step can stop. The state after reset (70_reset_and_hazards.md R281). -/

namespace Sys2Proof.Machine

/-- A clock value or timestamp: `CLOCK_BITS` bits (00_scope.md R7, R11, R23). -/
abbrev Time (cfg : Config) := BitVec cfg.clockBits

/-- One ring-buffer filter (R24): its `N_SAMPLES` slots `BUF[f]`, its running sum `SUM[f]`, its write cursor `CUR[f]` and
its conditioned value `CV[f]`. -/
structure RingFilter (cfg : Config) where
  buf : Vector Sample cfg.nSamples
  sum : BitVec 16
  cur : BitVec 4
  cv : Sample
deriving DecidableEq, Repr

/-- One burner channel (R28 to R31) with its filter. `relay = true` is ON, the energised output. -/
structure Burner (cfg : Config) where
  filter : RingFilter cfg
  /-- `DUTY[c]` -/
  duty : BitVec 5
  /-- `PREV_DUTY[c]` -/
  prevDuty : BitVec 5
  /-- `RELAY[c]` -/
  relay : Bool
  /-- `LASTT[c]` -/
  lastT : Time cfg
deriving DecidableEq, Repr

/-- The oven modes (R36, R161). The encoding 3 is never produced and is not represented (assumption 8). -/
inductive OvenMode where
  | off | bake | broil
deriving DecidableEq, Repr

/-- The oven unit (R34 to R38) with the filter of its temperature sensor. -/
structure Oven (cfg : Config) where
  filter : RingFilter cfg
  /-- `TEMP`, two's complement -/
  temp : BitVec 16
  /-- `SP` -/
  sp : BitVec 10
  /-- `MODE` -/
  mode : OvenMode
  /-- `R_BAKE` -/
  bake : Bool
  /-- `R_BROIL` -/
  broil : Bool
  /-- `OVEN_LASTT` -/
  lastT : Time cfg
deriving DecidableEq, Repr

/-- The PowerBudget of the most recent tick (R40). -/
structure Budget where
  /-- `TOT_DUTY` -/
  totDuty : BitVec 7
  /-- `TOT_W` -/
  totW : BitVec 16
  /-- `GRID_W` -/
  gridW : BitVec 16
  /-- `BATT_W` -/
  battW : BitVec 16
deriving DecidableEq, Repr

/-- What the host does to the block between commands: it issues a command word on the command port (00_scope.md R5)
or asserts the hardware reset input `RST_N`, power-on included (R280). -/
inductive HostEvent where
  | command (w : Word)
  | resetN
deriving DecidableEq, Repr

/-- The machine, on this hardware's configuration. Every field but `pending` is an element of R20. -/
structure State where
  /-- `NOW` -/
  now : Time config
  /-- `IN[0]` -/
  in0 : Sample
  /-- `IN[1]` -/
  in1 : Sample
  /-- `IN[2]` -/
  in2 : Sample
  /-- `IN[3]` -/
  in3 : Sample
  /-- `CYC_START` -/
  cycStart : Time config
  /-- `CYC_POS` -/
  cycPos : Time config
  /-- Burner channel 0 and filter 0 -/
  burner0 : Burner config
  /-- Burner channel 1 and filter 1 -/
  burner1 : Burner config
  /-- The oven unit and filter 2 -/
  oven : Oven config
  /-- `TOT_DUTY`, `TOT_W`, `GRID_W`, `BATT_W` -/
  budget : Budget
  /-- `PCA` -/
  pca : Bool
  /-- `RUN` -/
  run : Bool
  /-- `HALT` -/
  halt : Bool
  /-- `ERR` -/
  err : Bool
  /-- `ERRCODE` -/
  errCode : BitVec 3
  /-- `RDATA`, the read-data output port -/
  rdata : Word
  /-- DESIGN CHOICE (assumption 1): the events the host will present, the next one first. The model's own field:
  the sequence of command words is the host's choice and no state of the block (R48). -/
  pending : List HostEvent
deriving DecidableEq, Repr

/-- Why the machine can stop with a fault. -/
inductive Fault where
  /-- Raised by TICK alone, in RUNNING, when a write cursor holds 10..15 and so names no slot. No rule produces such
  a cursor (R26), and 93_implementation_defined.md I21 lets a model treat reaching one as a model error
  (assumption 4). Safe: the model stops where the spec gives no meaning. -/
  | cursorOutOfRange
deriving DecidableEq, Repr

/-- Why the machine can refuse. -/
inductive Refusal where
  /-- Raised by `exec` for an instruction that has no meaning yet, by the table's mnemonic. No arm of this model
  raises it. Safe. -/
  | notModelled (mnemonic : String)
deriving DecidableEq, Repr

/-- What a command or a step answers. -/
abbrev Result := Host.Outcome State Fault Refusal

/-- A filter after reset: all slots 0 (R281). -/
def RingFilter.zero {cfg : Config} : RingFilter cfg :=
  { buf := Vector.replicate cfg.nSamples 0#12, sum := 0#16, cur := 0#4, cv := 0#12 }

/-- A burner channel after reset (R281). -/
def Burner.zero {cfg : Config} : Burner cfg :=
  { filter := RingFilter.zero, duty := 0#5, prevDuty := 0#5, relay := false, lastT := 0#_ }

/-- The oven unit after reset (R281). -/
def Oven.zero {cfg : Config} : Oven cfg :=
  { filter := RingFilter.zero, temp := 0#16, sp := 0#10, mode := .off, bake := false, broil := false, lastT := 0#_ }

/-- The power budget after reset (R281). -/
def Budget.zero : Budget := { totDuty := 0#7, totW := 0#16, gridW := 0#16, battW := 0#16 }

/-- The machine right after a reset: every element 0, the block in IDLE (R281, R282). DESIGN CHOICE (assumption 1):
no host event is pending. -/
def State.reset : State where
  now := 0#_
  in0 := 0#12
  in1 := 0#12
  in2 := 0#12
  in3 := 0#12
  cycStart := 0#_
  cycPos := 0#_
  burner0 := Burner.zero
  burner1 := Burner.zero
  oven := Oven.zero
  budget := Budget.zero
  pca := false
  run := false
  halt := false
  err := false
  errCode := 0#3
  rdata := 0#32
  pending := []

end Sys2Proof.Machine
end

