-- ==== Sys2Proof/Machine/Ops.lean ====
section
/-! DEFINITION. The operations several commands share: recording a command error and clearing the record
(60_exceptions.md R253, R256), the HALTED gate (45_commands.md R210), the block's reset (70_reset_and_hazards.md
R281), the latches, the burner channels (00_scope.md R2), and time differences (R11). The block has no memory
(20_memory.md R60). -/

namespace Sys2Proof.Machine

/-- The command errors (R251). -/
inductive CmdError where
  | illegalOpcode | reservedNonzero | badState | badReg
deriving DecidableEq, Repr

/-- The code of an error (R251). -/
def errorCode : CmdError → BitVec 3
  | .illegalOpcode => 1#3
  | .reservedNonzero => 2#3
  | .badState => 3#3
  | .badReg => 4#3

/-- `raise CmdError(e)` (R253), the block's form of taking an exception: it enters no handler and transfers no
control (R256). The first error since the last clear is kept. -/
def raiseError (e : CmdError) (s : State) : State :=
  if s.err then s else { s with err := true, errCode := errorCode e }

/-- Leaving an error (R256, R221): the record is cleared. -/
def clearError (s : State) : State := { s with err := false, errCode := 0#3 }

/-- The first test of the dispatch (R210): in HALTED a command other than RDREG and RST changes nothing. -/
def unlessHalted (s : State) (act : State → Result) : Result := if s.halt then .next s else act s

/-- A reset (R281): every element of R20 takes its reset value. The host's later events stay (assumption 1). -/
def blockReset (s : State) : State := { State.reset with pending := s.pending }

/-- `tdiff(a, b)`: the difference modulo 2 to the width of the clock (R11). -/
def tdiff {w : Nat} (a b : BitVec w) : Nat := (a - b).toNat

/-- Read latch `IN[sel]` (R22). -/
def readInput (sel : InputSel) (s : State) : Sample :=
  match sel with
  | .burner0 => s.in0
  | .burner1 => s.in1
  | .ovenPot => s.in2
  | .ovenTemp => s.in3

/-- Write latch `IN[sel]` (R22). -/
def writeInput (sel : InputSel) (v : Sample) (s : State) : State :=
  match sel with
  | .burner0 => { s with in0 := v }
  | .burner1 => { s with in1 := v }
  | .ovenPot => { s with in2 := v }
  | .ovenTemp => { s with in3 := v }

/-- The burner channels (00_scope.md R2). -/
inductive Chan where
  | b0 | b1
deriving DecidableEq, Repr

/-- The channels a tick controls: the first `N_BURNERS` of the two that R2 gives (assumption 7). -/
def channels (cfg : Config) : List Chan := [Chan.b0, Chan.b1].take cfg.nBurners

/-- The burner of a channel (R2). -/
def burnerOf (c : Chan) (s : State) : Burner config :=
  match c with
  | .b0 => s.burner0
  | .b1 => s.burner1

/-- Replace the burner of a channel. -/
def setBurner (c : Chan) (b : Burner config) (s : State) : State :=
  match c with
  | .b0 => { s with burner0 := b }
  | .b1 => { s with burner1 := b }

/-- The latch that the filter of a channel conditions (40_signal_conditioner.md R100). -/
def burnerInput (c : Chan) (s : State) : Sample :=
  match c with
  | .b0 => s.in0
  | .b1 => s.in1

/-- The sample SETIN stores: `min(VAL, ADC_MAX)` (R212, D11). -/
def clampSample (cfg : Config) (val : BitVec 16) : Sample := BitVec.ofNat 12 (min val.toNat cfg.adcMax)

/-- `NOW[15:0]` replaced, `NOW[31:16]` kept (R213). -/
def withLowHalf {cfg : Config} (now : Time cfg) (val : BitVec 16) : Time cfg :=
  (now.extractLsb' 16 16 ++ val).setWidth cfg.clockBits

/-- `NOW[31:16]` replaced, `NOW[15:0]` kept (R214). -/
def withHighHalf {cfg : Config} (now : Time cfg) (val : BitVec 16) : Time cfg :=
  (val ++ now.extractLsb' 0 16).setWidth cfg.clockBits

end Sys2Proof.Machine
end

