-- ==== Sys2Proof/Machine/Control.lean ====
section
/-! DEFINITION. The meanings of NOP, START, CLRERR and RST (45_commands.md R211, R220 to R222). -/

namespace Sys2Proof.Machine

/-- NOP (R211): no operation, in HALTED as elsewhere. -/
def execNop (s : State) : Result := unlessHalted s fun s => .next s

/-- START (R220): BAD_STATE in RUNNING; IDLE to RUNNING when the sink initialised, to HALTED when it failed. -/
def execStart (sinkOk : Bool) (s : State) : Result :=
  unlessHalted s fun s =>
    if s.run then .next (raiseError .badState s)
    else if sinkOk then .next { s with run := true }
    else .next { s with halt := true }

/-- CLRERR (R221). -/
def execClrerr (s : State) : Result := unlessHalted s fun s => .next (clearError s)

/-- RST (R222): legal in every run state, HALTED included. -/
def execRst (s : State) : Result := .next (blockReset s)

end Sys2Proof.Machine
end

