-- ==== Sys2Proof/Machine/Inputs.lean ====
section
/-! DEFINITION. The meanings of the commands that load the latches: SETIN, SETTL, SETTH (45_commands.md R212 to
R214). All three are legal in IDLE and RUNNING and ignored in HALTED. -/

namespace Sys2Proof.Machine

/-- SETIN (R212): `IN[SEL] <- min(VAL, ADC_MAX)`. -/
def execSetin (sel : InputSel) (val : BitVec 16) (s : State) : Result :=
  unlessHalted s fun s => .next (writeInput sel (clampSample config val) s)

/-- SETTL (R213): `NOW <- {NOW[31:16], VAL}`. -/
def execSettl (val : BitVec 16) (s : State) : Result :=
  unlessHalted s fun s => .next { s with now := withLowHalf s.now val }

/-- SETTH (R214): `NOW <- {VAL, NOW[15:0]}`. -/
def execSetth (val : BitVec 16) (s : State) : Result :=
  unlessHalted s fun s => .next { s with now := withHighHalf s.now val }

end Sys2Proof.Machine
end

