-- ==== Sys2Proof/Machine/Flags.lean ====
section
/-! DEFINITION. The flags of the block (10_state.md R46): the overload flag (44_power_arbiter.md R194), the run
states (R43), and the STATUS view that shows them (R45). The block has no condition codes. -/

namespace Sys2Proof.Machine

/-- The overload boolean (R194). -/
def overload (gridW battW totW : Nat) : Bool := decide (gridW + battW < totW)

/-- IDLE (R43). -/
def State.isIdle (s : State) : Bool := !s.run && !s.halt

/-- RUNNING (R43). -/
def State.isRunning (s : State) : Bool := s.run && !s.halt

/-- HALTED (R43). -/
def State.isHalted (s : State) : Bool := !s.run && s.halt

/-- The encoding of the oven mode (R36, D37). -/
def modeBits : OvenMode → BitVec 2
  | .off => 0#2
  | .bake => 1#2
  | .broil => 2#2

/-- STATUS (R45), assembled from the most significant field down; bits 3, 7 and 31:15 read 0. -/
def statusWord (s : State) : Word :=
  (BitVec.ofBool s.oven.broil ++ BitVec.ofBool s.oven.bake ++ BitVec.ofBool s.burner1.relay
    ++ BitVec.ofBool s.burner0.relay ++ modeBits s.oven.mode ++ BitVec.ofBool s.pca ++ 0#1 ++ s.errCode ++ 0#1
    ++ BitVec.ofBool s.err ++ BitVec.ofBool s.halt ++ BitVec.ofBool s.run).setWidth 32

end Sys2Proof.Machine
end

