-- ==== Sys2Proof/Machine/Operands.lean ====
section
/-! DEFINITION. The register index space of RDREG (20_memory.md R61 to R63), the one way a command names a register
by number (10_state.md R21), and the relay output lines (R41). -/

namespace Sys2Proof.Machine

/-- The filters (R24): one for each burner and one for the oven temperature sensor. -/
inductive FilterId where
  | f0 | f1 | f2
deriving DecidableEq, Repr

/-- The readable registers of R61, by name. -/
inductive Reg where
  | status | now
  | input (sel : InputSel)
  | cycStart | cycPos
  | cv (f : FilterId)
  | sum (f : FilterId)
  | cur (f : FilterId)
  | duty (c : Chan)
  | prevDuty (c : Chan)
  | relay (c : Chan)
  | lastT (c : Chan)
  | temp | sp | mode | bake | broil | ovenLastT
  | totDuty | totW | gridW | battW | pca
  | buf (f : FilterId) (k : Fin config.nSamples)
deriving DecidableEq, Repr

/-- The indices of the platform block, 0x00..0x07 (R61). -/
def hostIndices : List (BitVec 8 × Reg) :=
  [(0x00#8, .status), (0x01#8, .now), (0x02#8, .input .burner0), (0x03#8, .input .burner1),
    (0x04#8, .input .ovenPot), (0x05#8, .input .ovenTemp), (0x06#8, .cycStart), (0x07#8, .cycPos)]

/-- The indices of burner 0, 0x10..0x16 (R61). -/
def burner0Indices : List (BitVec 8 × Reg) :=
  [(0x10#8, .cv .f0), (0x11#8, .duty .b0), (0x12#8, .prevDuty .b0), (0x13#8, .relay .b0),
    (0x14#8, .lastT .b0), (0x15#8, .sum .f0), (0x16#8, .cur .f0)]

/-- The indices of burner 1, 0x18..0x1E (R61). -/
def burner1Indices : List (BitVec 8 × Reg) :=
  [(0x18#8, .cv .f1), (0x19#8, .duty .b1), (0x1A#8, .prevDuty .b1), (0x1B#8, .relay .b1),
    (0x1C#8, .lastT .b1), (0x1D#8, .sum .f1), (0x1E#8, .cur .f1)]

/-- The indices of the oven, 0x20..0x28 (R61). -/
def ovenIndices : List (BitVec 8 × Reg) :=
  [(0x20#8, .cv .f2), (0x21#8, .temp), (0x22#8, .sp), (0x23#8, .mode), (0x24#8, .bake), (0x25#8, .broil),
    (0x26#8, .ovenLastT), (0x27#8, .sum .f2), (0x28#8, .cur .f2)]

/-- The indices of the power budget, 0x30..0x34 (R61). -/
def budgetIndices : List (BitVec 8 × Reg) :=
  [(0x30#8, .totDuty), (0x31#8, .totW), (0x32#8, .gridW), (0x33#8, .battW), (0x34#8, .pca)]

/-- The 36 single indices of R61's table. -/
def singleIndices : List (BitVec 8 × Reg) :=
  [hostIndices, burner0Indices, burner1Indices, ovenIndices, budgetIndices].flatten

/-- The slots of a filter from a base index (R61's last three rows). -/
def slotIndices (f : FilterId) (base : Nat) : List (BitVec 8 × Reg) :=
  (List.finRange config.nSamples).map fun k => (BitVec.ofNat 8 (base + k.val), .buf f k)

/-- The 30 buffer indices: `0x40 + 0x10 f + k` (R20, R61). -/
def bufferIndices : List (BitVec 8 × Reg) :=
  [slotIndices .f0 0x40, slotIndices .f1 0x50, slotIndices .f2 0x60].flatten

/-- The register an index names; `none` for an unmapped index (R61, R63). -/
def regOfIndex (idx : BitVec 8) : Option Reg := (singleIndices ++ bufferIndices).lookup idx

/-- The filter of an identifier (R24). -/
def filterOf (f : FilterId) (s : State) : RingFilter config :=
  match f with
  | .f0 => s.burner0.filter
  | .f1 => s.burner1.filter
  | .f2 => s.oven.filter

/-- A 1-bit element reads as 0 or 1 in bit 0 (R62). -/
def bitWord (b : Bool) : Word := (BitVec.ofBool b).setWidth 32

/-- `RegRead` of a mapped register (R62): zero-extended to 32 bits, `TEMP` sign-extended. -/
def regRead (r : Reg) (s : State) : Word :=
  match r with
  | .status => statusWord s
  | .now => s.now.setWidth 32
  | .input sel => (readInput sel s).setWidth 32
  | .cycStart => s.cycStart.setWidth 32
  | .cycPos => s.cycPos.setWidth 32
  | .cv f => (filterOf f s).cv.setWidth 32
  | .sum f => (filterOf f s).sum.setWidth 32
  | .cur f => (filterOf f s).cur.setWidth 32
  | .duty c => (burnerOf c s).duty.setWidth 32
  | .prevDuty c => (burnerOf c s).prevDuty.setWidth 32
  | .relay c => bitWord (burnerOf c s).relay
  | .lastT c => (burnerOf c s).lastT.setWidth 32
  | .temp => s.oven.temp.signExtend 32
  | .sp => s.oven.sp.setWidth 32
  | .mode => (modeBits s.oven.mode).setWidth 32
  | .bake => bitWord s.oven.bake
  | .broil => bitWord s.oven.broil
  | .ovenLastT => s.oven.lastT.setWidth 32
  | .totDuty => s.budget.totDuty.setWidth 32
  | .totW => s.budget.totW.setWidth 32
  | .gridW => s.budget.gridW.setWidth 32
  | .battW => s.budget.battW.setWidth 32
  | .pca => bitWord s.pca
  | .buf f k => ((filterOf f s).buf[k.val]).setWidth 32

/-- `RegRead(idx)`; an unmapped index has no value (R63). -/
def readIndex (idx : BitVec 8) (s : State) : Option Word := (regOfIndex idx).map (fun r => regRead r s)

/-- The four relay level outputs (R41). -/
structure RelayLines where
  rlyB0 : Bool
  rlyB1 : Bool
  rlyBake : Bool
  rlyBroil : Bool
deriving DecidableEq, Repr

/-- The levels the block drives: each is the register behind it (R41). -/
def relayLines (s : State) : RelayLines :=
  { rlyB0 := s.burner0.relay, rlyB1 := s.burner1.relay, rlyBake := s.oven.bake, rlyBroil := s.oven.broil }

end Sys2Proof.Machine
end

