-- ==== Sys2Proof/Machine/Readback.lean ====
section
/-! DEFINITION. The meaning of RDREG (45_commands.md R218, R219). -/

namespace Sys2Proof.Machine

/-- RDREG: a mapped index is read into `RDATA` (R218); an unmapped one leaves 0 there and raises BAD_REG (R219). It
is legal in every run state, HALTED included. -/
def execRdreg (idx : BitVec 8) (s : State) : Result :=
  match readIndex idx s with
  | some v => .next { s with rdata := v }
  | none => .next (raiseError .badReg { s with rdata := 0#32 })

end Sys2Proof.Machine
end

