-- ==== Sys2Proof/Machine/Arbiter.lean ====
section
/-! DEFINITION. The PowerArbiter (44_power_arbiter.md). -/

namespace Sys2Proof.Machine

/-- The oven's duty contribution (R190, C12). -/
def ovenDuty (cfg : Config) (o : Oven cfg) : Nat :=
  match o.mode with
  | .broil => cfg.ovenBroilDuty
  | .bake => if o.bake then cfg.ovenBakeDuty else 0
  | .off => 0

/-- The oven's power contribution (R190, C12). -/
def ovenWatts (cfg : Config) (o : Oven cfg) : Nat :=
  match o.mode with
  | .broil => cfg.ovenBroilW
  | .bake => if o.bake then cfg.ovenBakeW else 0
  | .off => 0

/-- A burner's duty contribution: its full duty while its relay is on (R191). -/
def burnerDuty {cfg : Config} (b : Burner cfg) : Nat := if b.relay then b.duty.toNat else 0

/-- A burner's power contribution (R191). -/
def burnerWatts (cfg : Config) (b : Burner cfg) : Nat := if b.relay then b.duty.toNat * cfg.wPerDuty else 0

/-- `TOT_DUTY` (R191, R192): the oven's part and the sum over the channels. -/
def totalDuty (cfg : Config) (b : Chan → Burner cfg) (o : Oven cfg) : Nat :=
  ovenDuty cfg o + ((channels cfg).map fun c => burnerDuty (b c)).sum

/-- `TOT_W` (R191, R192). -/
def totalWatts (cfg : Config) (b : Chan → Burner cfg) (o : Oven cfg) : Nat :=
  ovenWatts cfg o + ((channels cfg).map fun c => burnerWatts cfg (b c)).sum

/-- `GRID_W` (R193). -/
def gridShare (cfg : Config) (w : Nat) : Nat := min w cfg.maxGridW

/-- `BATT_W` (R193). -/
def battShare (cfg : Config) (w : Nat) : Nat := min (w - gridShare cfg w) cfg.maxBattW

/-- The budget of a request: its duty units, its watts and their split (R192, R193). -/
def budgetOf (cfg : Config) (duty w : Nat) : Budget where
  totDuty := BitVec.ofNat 7 duty
  totW := BitVec.ofNat 16 w
  gridW := BitVec.ofNat 16 (gridShare cfg w)
  battW := BitVec.ofNat 16 (battShare cfg w)

/-- ARBITRATE (R196): the totals, the split, and `PCA` last (R195). -/
def arbitrate (s : State) : State :=
  let b := fun c => burnerOf c s
  let w := totalWatts config b s.oven
  { s with
    budget := budgetOf config (totalDuty config b s.oven) w
    pca := overload (gridShare config w) (battShare config w) w }

end Sys2Proof.Machine
end

