-- ==== Sys2Proof/Machine/Conditioner.lean ====
section
/-! DEFINITION. The SignalConditioner (40_signal_conditioner.md). -/

namespace Sys2Proof.Machine

/-- FILTER_UPDATE (R101). `none` when the cursor names no slot, which no rule produces (R26, assumption 4). The sum
is kept in its 16 bits and the mean in its 12; on every reachable state neither is cut (R102, R105, assumption 5). -/
def filterUpdate (cfg : Config) (x : Sample) (f : RingFilter cfg) : Option (RingFilter cfg) :=
  if h : f.cur.toNat < cfg.nSamples then
    let sum := f.sum - (f.buf[f.cur.toNat]).setWidth 16 + x.setWidth 16
    some
      { buf := f.buf.set f.cur.toNat x
        sum := sum
        cur := BitVec.ofNat 4 ((f.cur.toNat + 1) % cfg.nSamples)
        cv := BitVec.ofNat 12 (sum.toNat / cfg.nSamples) }
  else none

end Sys2Proof.Machine
end

