-- ==== Sys2Proof/Machine/OvenControl.lean ====
section
/-! DEFINITION. The OvenModeController (43_oven_controller.md). -/

namespace Sys2Proof.Machine

/-- SETPOINT (R160): the raw potentiometer latch quantised to steps of `OVEN_STEP`. -/
def setpoint (cfg : Config) (pot : Sample) : BitVec 10 :=
  BitVec.ofNat 10 (min (pot.toNat * ovenSteps cfg / cfg.adcMax * cfg.ovenStep) cfg.ovenMax)

/-- OVEN_MODE (R161): a pure function of the setpoint. -/
def ovenMode (cfg : Config) (sp : BitVec 10) : OvenMode :=
  if sp.toNat = 0 then .off else if sp.toNat < cfg.ovenMax then .bake else .broil

/-- The bake relay's intended state in Bake mode (R167), on mathematical integers (R163, D41). -/
def bakeIntended (cfg : Config) (temp : BitVec 16) (sp : BitVec 10) (old : Bool) : Bool :=
  if temp.toInt < (sp.toNat : Int) - cfg.hystTemp then true
  else
    match cfg.ovenOffRule with
    | .threshold => false
    | .band => if temp.toInt > (sp.toNat : Int) + cfg.hystTemp then false else old

/-- The bake relay after the tick (R163): forced in Off and Broil (R164, R165), debounced in Bake (R168). -/
def bakeNext (cfg : Config) (t : Time cfg) (o : Oven cfg) : Bool :=
  match o.mode with
  | .off => false
  | .broil => true
  | .bake =>
    if bakeIntended cfg o.temp o.sp o.bake ≠ o.bake ∧ tdiff t o.lastT ≥ cfg.debounceMs then
      bakeIntended cfg o.temp o.sp o.bake
    else o.bake

/-- The broil relay after the tick (R163 to R166): on exactly in Broil. -/
def broilNext {cfg : Config} (o : Oven cfg) : Bool :=
  match o.mode with
  | .broil => true
  | .off => false
  | .bake => false

/-- OVEN_RELAY (R163): `OVEN_LASTT` moves whenever `R_BAKE` changes, in any mode (R169). -/
def ovenRelay (cfg : Config) (t : Time cfg) (o : Oven cfg) : Oven cfg :=
  { o with
    lastT := if bakeNext cfg t o ≠ o.bake then t else o.lastT
    bake := bakeNext cfg t o
    broil := broilNext o }

/-- The oven's block of TICK_BODY (R216): filter 2, TEMP_CONV (R162), SETPOINT, OVEN_MODE, OVEN_RELAY. -/
def ovenTick (cfg : Config) (t : Time cfg) (pot x : Sample) (o : Oven cfg) : Option (Oven cfg) :=
  match filterUpdate cfg x o.filter with
  | none => none
  | some f =>
    some (ovenRelay cfg t
      { o with
        filter := f
        temp := cfg.tempConv f.cv
        sp := setpoint cfg pot
        mode := ovenMode cfg (setpoint cfg pot) })

end Sys2Proof.Machine
end

