-- ==== Sys2Proof/Machine/DutyMapper.lean ====
section
/-! DEFINITION. The DutyMapper (41_duty_mapper.md). -/

namespace Sys2Proof.Machine

/-- RESCALE (R120): exact product, then floor. -/
def rescale (cfg : Config) (cv : Sample) : Nat := cv.toNat * cfg.dutyMax / cfg.adcMax

/-- DUTY_MAP (R121): the raw duty is adopted only when it differs from the held duty by more than the margin. -/
def dutyMap (cfg : Config) (cv : Sample) (held : BitVec 5) : BitVec 5 :=
  if ((rescale cfg cv : Int) - (held.toNat : Int)).natAbs > cfg.hystDuty then BitVec.ofNat 5 (rescale cfg cv)
  else held

end Sys2Proof.Machine
end

