-- ==== Sys2Proof/Machine/Scheduler.lean ====
section
/-! DEFINITION. The CycleScheduler (42_cycle_scheduler.md), and one burner channel's part of a tick
(45_commands.md R216). -/

namespace Sys2Proof.Machine

/-- CYCLE_ADVANCE (R140), first half: `CYC_START` restarts at `t` when the elapsed time exceeds the cycle. -/
def cycleAdvance (cfg : Config) (t start : Time cfg) : Time cfg :=
  if tdiff t start > cfg.cycleMs then t else start

/-- CYCLE_ADVANCE (R140), second half: the cycle position against the advanced start. -/
def cyclePosition (cfg : Config) (t start : Time cfg) : Time cfg := t - cycleAdvance cfg t start

/-- ON_TIME (R141, R12): product first, floor last. -/
def onTime (cfg : Config) (d : Nat) : Nat := d * cfg.cycleMs / cfg.dutyMax

/-- INTENDED (R142): the full duty is always on, whatever the position (C1). -/
def intended (cfg : Config) (d pos : Nat) : Bool :=
  if d ≥ cfg.dutyMax then true else decide (pos < onTime cfg d)

/-- SCHED_DECIDE (R143): a transition needs the debounce interval to have elapsed. It does not read `PCA` (R146). -/
def schedDecide (cfg : Config) (t pos : Time cfg) (b : Burner cfg) : Burner cfg :=
  if intended cfg b.duty.toNat pos.toNat ≠ b.relay ∧ tdiff t b.lastT ≥ cfg.debounceMs then
    { b with relay := intended cfg b.duty.toNat pos.toNat, lastT := t }
  else b

/-- One burner's block of TICK_BODY (R216): filter, `PREV_DUTY` (R122), map, decide. -/
def burnerTick (cfg : Config) (t pos : Time cfg) (x : Sample) (b : Burner cfg) : Option (Burner cfg) :=
  match filterUpdate cfg x b.filter with
  | none => none
  | some f =>
    some (schedDecide cfg t pos { b with filter := f, prevDuty := b.duty, duty := dutyMap cfg f.cv b.duty })

end Sys2Proof.Machine
end

