-- ==== Sys2Proof/Machine/Tick.lean ====
section
/-! DEFINITION. The meaning of TICK (45_commands.md R215 to R217). The components take the configuration record as an
argument; here they are put together on this hardware's configuration. -/

namespace Sys2Proof.Machine

/-- One turn of TICK_BODY's loop over the channels (R216). -/
def tickChannel (t pos : Time config) (s : State) (c : Chan) : Option State :=
  (burnerTick config t pos (burnerInput c s) (burnerOf c s)).map fun b => setBurner c b s

/-- The oven's part of TICK_BODY (R216). -/
def tickOven (t : Time config) (s : State) : Option State :=
  (ovenTick config t s.in2 s.in3 s.oven).map fun o => { s with oven := o }

/-- TICK_BODY (R216): one clock read, CYCLE_ADVANCE, the burners in channel order, the oven, then ARBITRATE. `none`
when some cursor names no slot (assumption 4). -/
def faithfulTick (s : State) : Option State :=
  let t := s.now
  let pos := cyclePosition config t s.cycStart
  let s := { s with cycStart := cycleAdvance config t s.cycStart, cycPos := pos }
  (((channels config).foldlM (tickChannel t pos) s).bind (tickOven t)).map arbitrate

/-- TICK_BODY under `GATE_MODE`. Under FAITHFUL, the one mode R7 admits, the `PCA` of the last tick is not looked at
(R146, R198, R217). -/
def tickBody (s : State) : Option State :=
  match config.gateMode with
  | .faithful => faithfulTick s

/-- TICK outside HALTED (R215): BAD_STATE in IDLE, TICK_BODY in RUNNING. -/
def runTick (s : State) : Result :=
  if s.run then
    match tickBody s with
    | some s' => .next s'
    | none => .fault .cursorOutOfRange
  else .next (raiseError .badState s)

/-- TICK (R215); ignored in HALTED. -/
def execTick (s : State) : Result := unlessHalted s runTick

end Sys2Proof.Machine
end

