-- ==== Sys2Proof/Machine/Dispatch.lean ====
section
/-! DEFINITION. The dispatch: one arm per command, one meaning per arm. -/

namespace Sys2Proof.Machine

def exec (i : Instr) (s : State) : Host.Outcome State Fault Refusal :=
  match i with
  | .nop => Sys2Proof.Machine.execNop s
  | .setin sel val => Sys2Proof.Machine.execSetin sel val s
  | .settl val => Sys2Proof.Machine.execSettl val s
  | .setth val => Sys2Proof.Machine.execSetth val s
  | .tick => Sys2Proof.Machine.execTick s
  | .rdreg idx => Sys2Proof.Machine.execRdreg idx s
  | .start sinkOk => Sys2Proof.Machine.execStart sinkOk s
  | .clrerr => Sys2Proof.Machine.execClrerr s
  | .rst => Sys2Proof.Machine.execRst s

end Sys2Proof.Machine
end

