-- ==== Sys2Proof/WellFormed.lean ====
section
/-! DEFINITION. Which terms are well formed. The operands of `Instr` have exactly the widths of their fields
(30_encoding.md R81, R83), and the spec restricts no operand value further (a SETIN value above 4095 is clamped, not
reserved, R85; an unmapped RDREG index is an error of execution, R219), so the check on a command states the field
bounds. An assembler statement has unbounded operands and is refused when one is out of its range (R88). -/

namespace Sys2Proof

/-- Each numeric operand fits its field of R81: VAL 16 bits, IDX 8 bits. `InputSel` names exactly the four values of
SEL, and `Bool` the two of SINK_OK. -/
def Instr.wellFormed : Instr → Bool
  | .nop => true
  | .setin _ val => decide (val.toNat < 65536)
  | .settl val => decide (val.toNat < 65536)
  | .setth val => decide (val.toNat < 65536)
  | .tick => true
  | .rdreg idx => decide (idx.toNat < 256)
  | .start _ => true
  | .clrerr => true
  | .rst => true

/-- The operand ranges of R88 and R89: an assembler refuses an operand out of its range. -/
def AsmStmt.wellFormed : AsmStmt → Bool
  | .nop => true
  | .setin ch val => decide (ch < 4) && decide (val < 65536)
  | .settl val => decide (val < 65536)
  | .setth val => decide (val < 65536)
  | .tick => true
  | .rdreg idx => decide (idx < 256)
  | .start ok => decide (ok < 2)
  | .clrerr => true
  | .rst => true
  | .settime t => decide (t < 4294967296)
  | .tickat t => decide (t < 4294967296)
  | .sample v0 v1 vp vt =>
    decide (v0 < 65536) && decide (v1 < 65536) && decide (vp < 65536) && decide (vt < 65536)
  | .word u => decide (u < 4294967296)

end Sys2Proof
end

