-- ==== Sys2Proof/Decode.lean ====
section
/-! DEFINITION. The decoder of 30_encoding.md R82 to R86, total on every word, and the encoder beside it; the
byte order of a platform link (20_memory.md R64); the table's own reading of a row, `decodeTableWord`. -/

namespace Sys2Proof

/-- The three outcomes of decoding (R85, R86). A reserved word keeps its opcode, because HALTED ignores it unless
the opcode is RDREG or RST (45_commands.md R210). -/
inductive Decoded where
  /-- A defined command. -/
  | cmd (i : Instr)
  /-- The opcode byte is none of the nine. -/
  | illegal
  /-- The opcode is legal, but a bit that its mask covers differs from its match value. -/
  | reserved (op : Opcode)
deriving DecidableEq, Repr

/-- `OPC = CMD[31:24]` (R81). -/
def opcByte (w : Word) : Byte := w.extractLsb' 24 8

/-- The OPC column of R82. -/
def Opcode.byte : Opcode → Byte
  | .nop => 0x00#8
  | .setin => 0x01#8
  | .settl => 0x02#8
  | .setth => 0x03#8
  | .tick => 0x10#8
  | .rdreg => 0x20#8
  | .start => 0x30#8
  | .clrerr => 0x31#8
  | .rst => 0xFF#8

/-- The opcode map read from the byte: `none` for the 247 illegal values (R82, R85). -/
def Opcode.ofByte (b : Byte) : Option Opcode :=
  [Opcode.nop, .setin, .settl, .setth, .tick, .rdreg, .start, .clrerr, .rst].find? (fun op => op.byte == b)

/-- The mask column of R82. -/
def Opcode.mask : Opcode → Word
  | .nop => 0xFFFFFFFF#32
  | .setin => 0xFFFC0000#32
  | .settl => 0xFFFF0000#32
  | .setth => 0xFFFF0000#32
  | .tick => 0xFFFFFFFF#32
  | .rdreg => 0xFFFFFF00#32
  | .start => 0xFFFFFFFE#32
  | .clrerr => 0xFFFFFFFF#32
  | .rst => 0xFFFFFFFF#32

/-- The match column of R82. -/
def Opcode.pattern : Opcode → Word
  | .nop => 0x00000000#32
  | .setin => 0x01000000#32
  | .settl => 0x02000000#32
  | .setth => 0x03000000#32
  | .tick => 0x10000000#32
  | .rdreg => 0x20000000#32
  | .start => 0x30000000#32
  | .clrerr => 0x31000000#32
  | .rst => 0xFF000000#32

/-- `SEL = CMD[17:16]` selects the latch `IN[SEL]` (R83). -/
def selOf (sel : BitVec 2) : InputSel :=
  match sel.toNat with
  | 0 => .burner0
  | 1 => .burner1
  | 2 => .ovenPot
  | _ => .ovenTemp

/-- The number of a latch, its `SEL` value (R83). -/
def InputSel.number : InputSel → Nat
  | .burner0 => 0
  | .burner1 => 1
  | .ovenPot => 2
  | .ovenTemp => 3

/-- `IMM16 = CMD[15:0]` (R81). -/
def immOf (w : Word) : BitVec 16 := w.extractLsb' 0 16

/-- Operand assembly (R83): no immediate is extended, scaled or shifted. -/
def Opcode.operands (op : Opcode) (w : Word) : Instr :=
  match op with
  | .nop => .nop
  | .setin => .setin (selOf (w.extractLsb' 16 2)) (immOf w)
  | .settl => .settl (immOf w)
  | .setth => .setth (immOf w)
  | .tick => .tick
  | .rdreg => .rdreg (w.extractLsb' 0 8)
  | .start => .start (w.getLsbD 0)
  | .clrerr => .clrerr
  | .rst => .rst

/-- The decoder (R86): every one of the 2^32 words has exactly one outcome. -/
def decode (w : Word) : Decoded :=
  match Opcode.ofByte (opcByte w) with
  | none => .illegal
  | some op => if w &&& op.mask = op.pattern then .cmd (op.operands w) else .reserved op

/-- The operand bits of a command, placed in the low 18 bits of its word (R81, R83). -/
def Instr.operandBits : Instr → Word
  | .nop => 0#32
  | .setin sel val => BitVec.ofNat 32 (sel.number * 65536 + val.toNat)
  | .settl val => BitVec.ofNat 32 val.toNat
  | .setth val => BitVec.ofNat 32 val.toNat
  | .tick => 0#32
  | .rdreg idx => BitVec.ofNat 32 idx.toNat
  | .start sinkOk => if sinkOk then 1#32 else 0#32
  | .clrerr => 0#32
  | .rst => 0#32

/-- The word of a command (R88): the match value of its opcode with the operand fields filled in. -/
def encode (i : Instr) : Word := i.opcode.pattern ||| i.operandBits

/-- The bytes of a word on a byte-serial platform link: least significant byte first (R64, assumption 9). -/
def linkBytes (w : Word) : List Byte :=
  [w.extractLsb' 0 8, w.extractLsb' 8 8, w.extractLsb' 16 8, w.extractLsb' 24 8]

/-- The word that four link bytes carry; no other number of bytes is a word (R64, R80). -/
def wordOfLink : List Byte → Option Word
  | [b0, b1, b2, b3] => some (b3 ++ b2 ++ b1 ++ b0)
  | _ => none

/-- The word of a table row's bits (bit 0 the least significant, as R9 numbers them). -/
def tableWord (nbits w : Nat) : Word := BitVec.ofNat 32 (w % 2 ^ nbits)

/-- What the decoder reads from the bits of a table row, sent over the link and assembled again. -/
def decodeTableWord (nbits w : Nat) : Option Instr :=
  match (wordOfLink (linkBytes (tableWord nbits w))).map decode with
  | some (.cmd i) => some i
  | _ => none

end Sys2Proof
end

