-- ==== Sys2Proof/Machine/Port.lean ====
section
/-! DEFINITION. The command port (00_scope.md R5): what the host presents next, and what the dispatch does with a
word that is no command (45_commands.md R210). -/

namespace Sys2Proof.Machine

/-- The next host event, and the state once it has been accepted (R5, assumption 1). -/
def acceptEvent (s : State) : Option (HostEvent × State) :=
  match s.pending with
  | [] => none
  | e :: rest => some (e, { s with pending := rest })

/-- The opcodes HALTED still executes: RDREG and RST (R210, R259). -/
def actsInHalted : Opcode → Bool
  | .rdreg => true
  | .rst => true
  | .nop => false
  | .setin => false
  | .settl => false
  | .setth => false
  | .tick => false
  | .start => false
  | .clrerr => false

/-- A word whose opcode byte is none of the nine: ILLEGAL_OPCODE, or nothing in HALTED (R210, R85). -/
def rejectIllegal (s : State) : Result := unlessHalted s fun s => .next (raiseError .illegalOpcode s)

/-- A reserved word: RESERVED_NONZERO; in HALTED nothing, unless its opcode is RDREG or RST (R210, R254,
assumption 11). -/
def rejectReserved (op : Opcode) (s : State) : Result :=
  if actsInHalted op then .next (raiseError .reservedNonzero s)
  else unlessHalted s fun s => .next (raiseError .reservedNonzero s)

/-- The hardware reset input `RST_N`, taken between commands, with the effect of RST (R280). -/
def hardwareReset (s : State) : State := blockReset s

end Sys2Proof.Machine
end

