-- ==== Sys2Proof/Machine/Step.lean ====
section
/-! DEFINITION. One step: the block accepts the host's next event and completes it (00_scope.md R5, 45_commands.md
R210). -/

namespace Sys2Proof.Machine

/-- One step. With no event pending the block holds its state (60_exceptions.md R266). -/
def step (s : State) : Host.Outcome State Fault Refusal :=
  match acceptEvent s with
  | none => .next s
  | some (.resetN, s) => .next (hardwareReset s)
  | some (.command w, s) =>
    match decode w with
    | .cmd i => exec i s
    | .illegal => rejectIllegal s
    | .reserved op => rejectReserved op s

/-- `s` with the word of a table row on the command port, ahead of what the host holds pending, so that the very
next step runs it (assumption 1). -/
def State.withFetchWord (s : State) (nbits w : Nat) : State :=
  { s with pending := .command (tableWord nbits w) :: s.pending }

end Sys2Proof.Machine
end

