-- ==== Sys2Proof/Machine/Assembler.lean ====
section
/-! DEFINITION. The assembler of 30_encoding.md R88 and R89: statements to command words, with the
pseudo-instructions and the directive, and one line of text to a statement. No rule of the block reads it; the block
takes words. The lexical details R88 leaves open are assumption 10. -/

namespace Sys2Proof.Machine

/-- `setin <ch>, <val>` as a command (R88). -/
def setinOf (ch val : Nat) : Instr := .setin (selOf (BitVec.ofNat 2 ch)) (BitVec.ofNat 16 val)

/-- `settime <t32>`: `setth t32[31:16]` then `settl t32[15:0]` (R89). -/
def settimeOf (t : Nat) : List Instr := [.setth (BitVec.ofNat 16 (t / 65536)), .settl (BitVec.ofNat 16 (t % 65536))]

/-- The commands of a statement; `.word` is a directive and stands for no command (R89). -/
def commandsOf : AsmStmt → List Instr
  | .nop => [.nop]
  | .setin ch val => [setinOf ch val]
  | .settl val => [.settl (BitVec.ofNat 16 val)]
  | .setth val => [.setth (BitVec.ofNat 16 val)]
  | .tick => [.tick]
  | .rdreg idx => [.rdreg (BitVec.ofNat 8 idx)]
  | .start ok => [.start (decide (ok = 1))]
  | .clrerr => [.clrerr]
  | .rst => [.rst]
  | .settime t => settimeOf t
  | .tickat t => settimeOf t ++ [.tick]
  | .sample v0 v1 vp vt => [setinOf 0 v0, setinOf 1 v1, setinOf 2 vp, setinOf 3 vt]
  | .word _ => []

/-- The words of a statement; refused when an operand is out of its range (R88). -/
def assemble (a : AsmStmt) : Option (List Word) :=
  if a.wellFormed then
    match a with
    | .word u => some [BitVec.ofNat 32 u]
    | a => some ((commandsOf a).map encode)
  else none

/-- White space inside a line (assumption 10). -/
def isBlank (c : Char) : Bool := c = ' ' || c = '\t' || c = '\r'

/-- A text without the white space at its ends. -/
def trimText (cs : List Char) : List Char := ((cs.dropWhile isBlank).reverse.dropWhile isBlank).reverse

/-- A line without its comment: `;` starts one (R88). -/
def stripComment (cs : List Char) : List Char := cs.takeWhile (fun c => c != ';')

/-- The value of a digit of a base up to 16. -/
def digitValue (base : Nat) (c : Char) : Option Nat :=
  let n := c.toNat
  let v :=
    if 48 ≤ n ∧ n ≤ 57 then n - 48
    else if 97 ≤ n ∧ n ≤ 102 then n - 87
    else if 65 ≤ n ∧ n ≤ 70 then n - 55
    else 16
  if v < base then some v else none

/-- Digits after a value already read. -/
def digitsValue (base acc : Nat) : List Char → Option Nat
  | [] => some acc
  | c :: cs =>
    match digitValue base c with
    | some v => digitsValue base (acc * base + v) cs
    | none => none

/-- A number: decimal, or hexadecimal with `0x` (R88). -/
def parseNumber : List Char → Option Nat
  | [] => none
  | '0' :: 'x' :: c :: cs => digitsValue 16 0 (c :: cs)
  | c :: cs => digitsValue 10 0 (c :: cs)

/-- A channel: `b0`, `b1`, `opot`, `otemp`, or a number (R88). -/
def parseChannel (cs : List Char) : Option Nat :=
  match [("b0".toList, 0), ("b1".toList, 1), ("opot".toList, 2), ("otemp".toList, 3)].lookup cs with
  | some n => some n
  | none => parseNumber cs

/-- The digit of a burner channel in a register's name. -/
def chanDigit : Chan → Char
  | .b0 => '0'
  | .b1 => '1'

/-- The digit of a filter in a register's name. -/
def filterDigit : FilterId → Char
  | .f0 => '0'
  | .f1 => '1'
  | .f2 => '2'

/-- The name column of R61. -/
def regName : Reg → List Char
  | .status => "STATUS".toList
  | .now => "NOW".toList
  | .input .burner0 => "IN0".toList
  | .input .burner1 => "IN1".toList
  | .input .ovenPot => "IN2".toList
  | .input .ovenTemp => "IN3".toList
  | .cycStart => "CYC_START".toList
  | .cycPos => "CYC_POS".toList
  | .cv f => "CV".toList ++ [filterDigit f]
  | .sum f => "SUM".toList ++ [filterDigit f]
  | .cur f => "CUR".toList ++ [filterDigit f]
  | .duty c => "DUTY".toList ++ [chanDigit c]
  | .prevDuty c => "PREV_DUTY".toList ++ [chanDigit c]
  | .relay c => "RELAY".toList ++ [chanDigit c]
  | .lastT c => "LASTT".toList ++ [chanDigit c]
  | .temp => "TEMP".toList
  | .sp => "SP".toList
  | .mode => "MODE".toList
  | .bake => "R_BAKE".toList
  | .broil => "R_BROIL".toList
  | .ovenLastT => "OVEN_LASTT".toList
  | .totDuty => "TOT_DUTY".toList
  | .totW => "TOT_W".toList
  | .gridW => "GRID_W".toList
  | .battW => "BATT_W".toList
  | .pca => "PCA".toList
  | .buf f k => "BUF".toList ++ [filterDigit f, '_', Char.ofNat (48 + k.val)]

/-- A register index: a name of R61, or a number (R88). -/
def parseIndex (cs : List Char) : Option Nat :=
  match (singleIndices ++ bufferIndices).find? (fun e => regName e.2 == cs) with
  | some e => some e.1.toNat
  | none => parseNumber cs

/-- The operands of a line: split at commas, each trimmed; no text means no operand. -/
def splitOperands (cs : List Char) : List (List Char) :=
  if (trimText cs).isEmpty then []
  else ((cs.splitOnP (fun c => c == ',')).map trimText)

/-- The statements without operands (R88). -/
def plainStmts : List (List Char × AsmStmt) :=
  [("nop".toList, .nop), ("tick".toList, .tick), ("clrerr".toList, .clrerr), ("rst".toList, .rst)]

/-- The statements with one operand, each with how the operand is read (R88, R89). -/
def unaryStmts : List (List Char × (List Char → Option Nat) × (Nat → AsmStmt)) :=
  [("settl".toList, parseNumber, .settl), ("setth".toList, parseNumber, .setth),
    ("rdreg".toList, parseIndex, .rdreg), ("start".toList, parseNumber, .start),
    ("settime".toList, parseNumber, .settime), ("tickat".toList, parseNumber, .tickat),
    (".word".toList, parseNumber, .word)]

/-- `setin <ch>, <val>` (R88). -/
def parseSetin (ch v : List Char) : Option AsmStmt :=
  match parseChannel ch, parseNumber v with
  | some ch, some v => some (.setin ch v)
  | _, _ => none

/-- `sample <v0>, <v1>, <vp>, <vt>` (R89). -/
def parseSample (v0 v1 vp vt : List Char) : Option AsmStmt :=
  match [v0, v1, vp, vt].mapM parseNumber with
  | some [v0, v1, vp, vt] => some (.sample v0 v1 vp vt)
  | _ => none

/-- A mnemonic and its operands as a statement (R88, R89); any other mnemonic or shape is refused. -/
def parseStmt (mnemonic : List Char) (operands : List (List Char)) : Option AsmStmt :=
  match operands with
  | [] => plainStmts.lookup mnemonic
  | [a] => (unaryStmts.lookup mnemonic).bind fun p => (p.1 a).map p.2
  | [a, b] => if mnemonic = "setin".toList then parseSetin a b else none
  | [a, b, c, d] => if mnemonic = "sample".toList then parseSample a b c d else none
  | _ => none

/-- One line of text to words (R88): one command a line, mnemonics not case-sensitive; an empty line or one that
holds only a comment gives no word; `none` is the assembler's refusal. -/
def assembleLine (line : List Char) : Option (List Word) :=
  let text := trimText (stripComment line)
  if text.isEmpty then some []
  else
    let mnemonic := (text.takeWhile (fun c => !isBlank c)).map Char.toLower
    let rest := text.dropWhile (fun c => !isBlank c)
    (parseStmt mnemonic (splitOperands rest)).bind assemble

/-- A program's lines to its words, in order (R88). DESIGN CHOICE (assumption 10): a refused line refuses the whole
program; R88 says only that the operand or the mnemonic is refused. -/
def assembleProgram : List (List Char) → Option (List Word)
  | [] => some []
  | line :: lines =>
    match assembleLine line, assembleProgram lines with
    | some ws, some rest => some (ws ++ rest)
    | _, _ => none

end Sys2Proof.Machine
end

