-- ==== Sys2Proof/Safety.lean ====
section
/-! DEFINITION. What a claim calls a legal state (the legal-values column of 10_state.md R20 and the relations the
rules give between elements), a step that resets, and a quiet stretch of a run. -/

namespace Sys2Proof.Machine

/-- Run state RUNNING (R43): a TICK has its effect. -/
abbrev Running (s : State) : Prop := s.run = true ∧ s.halt = false

/-- The three write cursors name slots (R26). -/
abbrev CursorsLegal (s : State) : Prop :=
  s.burner0.filter.cur.toNat < 10 ∧ s.burner1.filter.cur.toNat < 10 ∧ s.oven.filter.cur.toNat < 10

/-- The sum of a filter's slots (R25). -/
def slotSum {cfg : Config} (f : RingFilter cfg) : Nat := (f.buf.toList.map BitVec.toNat).sum

/-- A filter as the rules keep it: cursor in 0..9 (R26), `SUM` equal to the sum of the slots (R25, R102), `CV` the
floored mean (R101). -/
abbrev FilterLegal (f : RingFilter config) : Prop :=
  f.cur.toNat < 10 ∧ f.sum.toNat = slotSum f ∧ f.cv.toNat = f.sum.toNat / 10

/-- A burner channel as the rules keep it (R28, R29). -/
abbrev BurnerLegal (b : Burner config) : Prop := FilterLegal b.filter ∧ b.duty.toNat ≤ 30 ∧ b.prevDuty.toNat ≤ 30

/-- `MODE` is the mode of `SP` (R161), and in Off, Broil and Bake the relays are as R164 to R166 leave them. -/
abbrev OvenModeLegal (o : Oven config) : Prop :=
  (o.sp.toNat = 0 → o.mode = .off ∧ o.bake = false ∧ o.broil = false) ∧
  (0 < o.sp.toNat ∧ o.sp.toNat < 550 → o.mode = .bake ∧ o.broil = false) ∧
  (550 ≤ o.sp.toNat → o.mode = .broil ∧ o.bake = true ∧ o.broil = true)

/-- The oven unit as the rules keep it (R35, R36). -/
abbrev OvenLegal (o : Oven config) : Prop :=
  FilterLegal o.filter ∧ o.sp.toNat % 25 = 0 ∧ o.sp.toNat ≤ 550 ∧ OvenModeLegal o

/-- The power budget as the rules keep it (R192 to R195). -/
abbrev BudgetLegal (s : State) : Prop :=
  s.budget.totDuty.toNat ≤ 100 ∧ s.budget.totW.toNat ≤ 9000 ∧
  s.budget.gridW.toNat = min s.budget.totW.toNat 1500 ∧
  s.budget.battW.toNat = min (s.budget.totW.toNat - s.budget.gridW.toNat) 3000 ∧
  (s.pca = true ↔ maxSupplyW config < s.budget.totW.toNat)

/-- The error record as R253 and R221 keep it (R44). -/
abbrev ErrorLegal (s : State) : Prop := s.errCode.toNat ≤ 4 ∧ (s.err = true ↔ s.errCode ≠ 0#3)

/-- Outside RUNNING every relay line is off (R259, R283). -/
abbrev RelaysOffUnlessRunning (s : State) : Prop := s.run = false → relayLines s = ⟨false, false, false, false⟩

/-- A legal state: every element in the legal-values column of R20, with the relations the rules keep. -/
abbrev Legal (s : State) : Prop :=
  BurnerLegal s.burner0 ∧ BurnerLegal s.burner1 ∧ OvenLegal s.oven ∧ BudgetLegal s ∧ ErrorLegal s ∧
  s.cycPos.toNat ≤ 30000 ∧ ¬ (s.run = true ∧ s.halt = true) ∧ RelaysOffUnlessRunning s

/-- The next event resets the block: `RST_N` or the RST command (R280). -/
abbrev ResetsNext (s : State) : Prop :=
  s.pending.head? = some .resetN ∨ s.pending.head? = some (.command 0xFF000000#32)

/-- The next event is a TICK command. -/
abbrev TicksNext (s : State) : Prop := s.pending.head? = some (.command 0x10000000#32)

/-- A stretch of a run in which the relay of burner `c` does not change and no reset happens. -/
inductive QuietBurner (c : Chan) : State → State → Prop where
  | here (s : State) : QuietBurner c s s
  | more (s t u : State) : step s = .next t → ¬ ResetsNext s → (burnerOf c t).relay = (burnerOf c s).relay →
      QuietBurner c t u → QuietBurner c s u

/-- A stretch of a run in which the bake relay does not change and no reset happens. -/
inductive QuietBake : State → State → Prop where
  | here (s : State) : QuietBake s s
  | more (s t u : State) : step s = .next t → ¬ ResetsNext s → t.oven.bake = s.oven.bake →
      QuietBake t u → QuietBake s u

/-- A sequence of FILTER_UPDATEs of one filter, one for each sample in order (R101, R103). -/
def feed (cfg : Config) (xs : List Sample) (f : RingFilter cfg) : Option (RingFilter cfg) :=
  xs.foldlM (fun f x => filterUpdate cfg x f) f

/-- One FILTER_UPDATE as R101 describes it, on exact sums: the slot under the cursor takes the sample, the sum trades
the old slot for the new one, the cursor advances modulo 10 and the mean is floored. -/
abbrev FilterStepSpec (f : RingFilter config) (x : Sample) (f' : RingFilter config) : Prop :=
  ∀ k : Fin 10, k.val = f.cur.toNat →
    f'.buf[k.val] = x ∧ (∀ j : Fin 10, j ≠ k → f'.buf[j.val] = f.buf[j.val]) ∧
    f'.sum.toNat + (f.buf[k.val]).toNat = f.sum.toNat + x.toNat ∧
    f'.cur.toNat = (k.val + 1) % 10 ∧ f'.cv.toNat = f'.sum.toNat / 10

/-- The raw duty of a conditioned value, on this hardware's constants (R120). -/
abbrev rawDuty (cv : Sample) : Nat := cv.toNat * 30 / 4095

/-- The mapped indices of R61, by ranges. -/
abbrev MappedIndex (idx : BitVec 8) : Prop :=
  idx.toNat ≤ 0x07 ∨ (0x10 ≤ idx.toNat ∧ idx.toNat ≤ 0x16) ∨ (0x18 ≤ idx.toNat ∧ idx.toNat ≤ 0x1E) ∨
  (0x20 ≤ idx.toNat ∧ idx.toNat ≤ 0x28) ∨ (0x30 ≤ idx.toNat ∧ idx.toNat ≤ 0x34) ∨
  (0x40 ≤ idx.toNat ∧ idx.toNat ≤ 0x69 ∧ idx.toNat % 16 ≤ 9)

/-- `s` with an error recorded by R253: the first code is kept. -/
def recorded (code : BitVec 3) (s : State) : State :=
  { s with err := true, errCode := if s.err = true then s.errCode else code }

end Sys2Proof.Machine
end

