-- ==== Sys2Proof/Certificates/Slice0/Obligations.lean ====
section
/-! DEFINITION. The statements for the provers. Each says in its docstring which rule of spec/ it formalises. The
block has no memory (20_memory.md R60), so no frame below has a memory clause: a frame names every element of the
state. -/

open Sys2Proof Sys2Proof.Machine

/-! ## Encoding -/

/-- R82, R83: the word of a command decodes to that command, every operand at every value its field admits. -/
def Obligations.DecodeOfEncodeIsTheCommand : Prop :=
  ∀ i : Instr, decode (encode i) = .cmd i

/-- R82, R85: a command has one word: every bit of a word that decodes to a command is an opcode bit, an operand bit
or a zero. -/
def Obligations.EncodeOfDecodeIsTheWord : Prop :=
  ∀ (w : Word) (i : Instr), decode w = .cmd i → encode i = w

/-- R82: the opcode map. A word that matches a row is that row's command with that row's fields; a word that matches
none is no command. -/
def Obligations.DecoderFollowsOpcodeMap : Prop :=
  ∀ w : Word,
    (w &&& 0xFFFFFFFF#32 = 0x00000000#32 → decode w = .cmd .nop) ∧
    (w &&& 0xFFFC0000#32 = 0x01000000#32 →
      ∃ sel : InputSel, sel.number = (w.extractLsb' 16 2).toNat ∧
        decode w = .cmd (.setin sel (w.extractLsb' 0 16))) ∧
    (w &&& 0xFFFF0000#32 = 0x02000000#32 → decode w = .cmd (.settl (w.extractLsb' 0 16))) ∧
    (w &&& 0xFFFF0000#32 = 0x03000000#32 → decode w = .cmd (.setth (w.extractLsb' 0 16))) ∧
    (w &&& 0xFFFFFFFF#32 = 0x10000000#32 → decode w = .cmd .tick) ∧
    (w &&& 0xFFFFFF00#32 = 0x20000000#32 → decode w = .cmd (.rdreg (w.extractLsb' 0 8))) ∧
    (w &&& 0xFFFFFFFE#32 = 0x30000000#32 → decode w = .cmd (.start (w.getLsbD 0))) ∧
    (w &&& 0xFFFFFFFF#32 = 0x31000000#32 → decode w = .cmd .clrerr) ∧
    (w &&& 0xFFFFFFFF#32 = 0xFF000000#32 → decode w = .cmd .rst) ∧
    ((∃ i, decode w = .cmd i) →
      w &&& 0xFFFFFFFF#32 ∈ [0x00000000#32, 0x10000000#32, 0x31000000#32, 0xFF000000#32] ∨
      w &&& 0xFFFC0000#32 = 0x01000000#32 ∨ w &&& 0xFFFF0000#32 ∈ [0x02000000#32, 0x03000000#32] ∨
      w &&& 0xFFFFFF00#32 = 0x20000000#32 ∨ w &&& 0xFFFFFFFE#32 = 0x30000000#32)

/-- R85, R86: a word is illegal exactly when its opcode byte is none of the nine, and reserved exactly when the byte
is one of the nine but a bit its mask covers differs. -/
def Obligations.IllegalAndReservedWords : Prop :=
  ∀ w : Word,
    (decode w = .illegal ↔
      opcByte w ∉ [0x00#8, 0x01#8, 0x02#8, 0x03#8, 0x10#8, 0x20#8, 0x30#8, 0x31#8, 0xFF#8]) ∧
    (∀ op : Opcode, decode w = .reserved op ↔ opcByte w = op.byte ∧ w &&& op.mask ≠ op.pattern)

/-- R90: the worked encodings, and the worked reserved and illegal words. -/
def Obligations.WorkedEncodings : Prop :=
  encode (.setin .burner1 4095#16) = 0x01010FFF#32 ∧ decode 0x01010FFF#32 = .cmd (.setin .burner1 4095#16) ∧
  encode (.setin .ovenPot 2300#16) = 0x010208FC#32 ∧ decode 0x010208FC#32 = .cmd (.setin .ovenPot 2300#16) ∧
  encode (.settl 1000#16) = 0x020003E8#32 ∧ decode 0x020003E8#32 = .cmd (.settl 1000#16) ∧
  encode (.rdreg 0x31#8) = 0x20000031#32 ∧ decode 0x20000031#32 = .cmd (.rdreg 0x31#8) ∧
  encode (.start true) = 0x30000001#32 ∧ decode 0x30000001#32 = .cmd (.start true) ∧
  decode 0x01040000#32 = .reserved .setin ∧ decode 0x10000001#32 = .reserved .tick ∧
  decode 0x04000000#32 = .illegal

/-- R64: the bytes of a word on a byte-serial link, least significant first, are the word again (the link itself is
only a helper of the model, assumption 9). -/
def Obligations.LinkBytesRoundTrip : Prop :=
  ∀ w : Word, wordOfLink (linkBytes w) = some w ∧ (linkBytes w).map BitVec.toNat =
    [w.toNat % 256, w.toNat / 256 % 256, w.toNat / 65536 % 256, w.toNat / 16777216]

/-- R88, R89: the words each form of statement assembles to, and its refusal exactly when an operand is out of its
range; every word of an accepted statement is a command (the directive `.word` apart, which emits any word). -/
def Obligations.AssembledWordsAreCommands : Prop :=
  assemble .nop = some [0x00000000#32] ∧
  (∀ ch val : Nat, assemble (.setin ch val) = if ch < 4 ∧ val < 65536 then
    some [0x01000000#32 ||| BitVec.ofNat 32 ch <<< 16 ||| BitVec.ofNat 32 val] else none) ∧
  (∀ val : Nat, assemble (.settl val) = if val < 65536 then some [0x02000000#32 ||| BitVec.ofNat 32 val] else none) ∧
  (∀ val : Nat, assemble (.setth val) = if val < 65536 then some [0x03000000#32 ||| BitVec.ofNat 32 val] else none) ∧
  assemble .tick = some [0x10000000#32] ∧
  (∀ idx : Nat, assemble (.rdreg idx) = if idx < 256 then some [0x20000000#32 ||| BitVec.ofNat 32 idx] else none) ∧
  (∀ ok : Nat, assemble (.start ok) = if ok < 2 then some [0x30000000#32 ||| BitVec.ofNat 32 ok] else none) ∧
  assemble .clrerr = some [0x31000000#32] ∧
  assemble .rst = some [0xFF000000#32] ∧
  (∀ t : Nat, assemble (.settime t) = if t < 4294967296 then
    some [0x03000000#32 ||| BitVec.ofNat 32 (t / 65536), 0x02000000#32 ||| BitVec.ofNat 32 (t % 65536)] else none) ∧
  (∀ t : Nat, assemble (.tickat t) = if t < 4294967296 then
    some [0x03000000#32 ||| BitVec.ofNat 32 (t / 65536), 0x02000000#32 ||| BitVec.ofNat 32 (t % 65536), 0x10000000#32]
    else none) ∧
  (∀ v0 v1 vp vt : Nat, assemble (.sample v0 v1 vp vt) =
    if v0 < 65536 ∧ v1 < 65536 ∧ vp < 65536 ∧ vt < 65536 then
      some [0x01000000#32 ||| BitVec.ofNat 32 v0, 0x01010000#32 ||| BitVec.ofNat 32 v1,
        0x01020000#32 ||| BitVec.ofNat 32 vp, 0x01030000#32 ||| BitVec.ofNat 32 vt]
    else none) ∧
  (∀ u : Nat, assemble (.word u) = if u < 4294967296 then some [BitVec.ofNat 32 u] else none) ∧
  ∀ (a : AsmStmt) (ws : List Word), (∀ u, a ≠ .word u) → assemble a = some ws →
    ∀ w ∈ ws, ∃ i, decode w = .cmd i

/-- R89: `settime` writes all of `NOW`, and nothing else. -/
def Obligations.SettimeWritesWholeClock : Prop :=
  ∀ (s : State) (t : Nat), t < 4294967296 → s.halt = false → s.pending = [] →
    ∃ ws, assemble (.settime t) = some ws ∧
      Host.Core.run Sys2Proof.core 2 { s with pending := ws.map .command } = .next { s with now := BitVec.ofNat _ t }

/-! ## One step -/

/-- R5, R210: the next word on the command port, when it decodes to a command, is executed completely, on the state
in which the port has moved on (assumption 1). -/
def Obligations.StepRunsDecodedCommand : Prop :=
  ∀ (s : State) (w : Word) (rest : List HostEvent) (i : Instr),
    s.pending = .command w :: rest → decode w = .cmd i → step s = exec i { s with pending := rest }

/-- R266: with no command the block does nothing and holds its state; that a step with no event pending answers that
same state is the model's choice (assumption 1). -/
def Obligations.StepHoldsBetweenCommands : Prop :=
  ∀ s : State, s.pending = [] → step s = .next s

/-- R86: every word presented has an outcome that is a next state, and consumes exactly that word (assumption 1),
when the write cursors name slots (assumption 4). -/
def Obligations.EveryWordHasAnOutcome : Prop :=
  ∀ (s : State) (w : Word) (rest : List HostEvent),
    s.pending = .command w :: rest → CursorsLegal s → ∃ t, step s = .next t ∧ t.pending = rest

/-- R85, R210, R251, R253: outside HALTED an illegal word records code 1 and changes no other state; the first
recorded code is kept. The word leaves the port (assumption 1). -/
def Obligations.IllegalWordRecordsCodeOne : Prop :=
  ∀ (s : State) (w : Word) (rest : List HostEvent),
    s.pending = .command w :: rest → s.halt = false → decode w = .illegal →
    step s = .next { s with pending := rest, err := true, errCode := if s.err = true then s.errCode else 1#3 }

/-- R85, R210, R251, R253: a reserved word records code 2 and changes no other state, outside HALTED for every
opcode, and in HALTED for the opcodes RDREG and RST (assumption 11). The word leaves the port (assumption 1). -/
def Obligations.ReservedWordRecordsCodeTwo : Prop :=
  ∀ (s : State) (w : Word) (rest : List HostEvent) (op : Opcode),
    s.pending = .command w :: rest → (s.halt = false ∨ opcByte w = 0x20#8 ∨ opcByte w = 0xFF#8) →
    decode w = .reserved op →
    step s = .next { s with pending := rest, err := true, errCode := if s.err = true then s.errCode else 2#3 }

/-- R210, R259: in HALTED a word whose opcode is neither RDREG nor RST, legal or not, changes nothing; it leaves the
port (assumption 1). -/
def Obligations.HaltedIgnoresOtherWords : Prop :=
  ∀ (s : State) (w : Word) (rest : List HostEvent),
    s.pending = .command w :: rest → s.halt = true → opcByte w ≠ 0x20#8 → opcByte w ≠ 0xFF#8 →
    step s = .next { s with pending := rest }

/-- R280: the two reset sources have the same effect, in every state. That later host events stay pending is the
model's choice (assumptions 1 and 2). -/
def Obligations.BothResetSourcesAgree : Prop :=
  ∀ (s : State) (rest : List HostEvent),
    step { s with pending := .resetN :: rest } = .next { State.reset with pending := rest } ∧
    step { s with pending := .command 0xFF000000#32 :: rest } = .next { State.reset with pending := rest }

/-! ## Reset and the register index space -/

/-- R281: after a reset every element is 0, every register reads 0, every relay line is off, and the all-zero state
satisfies the invariants the rule names. -/
def Obligations.ResetLeavesEveryElementZero : Prop :=
  (∀ r : Reg, regRead r State.reset = 0#32) ∧ State.reset.rdata = 0#32 ∧
  State.reset.run = false ∧ State.reset.halt = false ∧ State.reset.err = false ∧ State.reset.errCode = 0#3 ∧
  relayLines State.reset = ⟨false, false, false, false⟩ ∧
  (∀ f : FilterId, (filterOf f State.reset).sum.toNat = slotSum (filterOf f State.reset)) ∧
  State.reset.oven.mode = ovenMode config State.reset.oven.sp ∧ State.reset.pca = overload 0 0 0

/-- R61 (its table), R62: what each mapped index reads, extended to 32 bits. -/
def Obligations.RegisterIndexTable : Prop :=
  ∀ s : State,
    (∀ b : BitVec 8 × Nat, b ∈
      [(0x01#8, s.now.toNat), (0x02#8, s.in0.toNat), (0x03#8, s.in1.toNat), (0x04#8, s.in2.toNat),
        (0x05#8, s.in3.toNat), (0x06#8, s.cycStart.toNat), (0x07#8, s.cycPos.toNat),
        (0x10#8, s.burner0.filter.cv.toNat), (0x11#8, s.burner0.duty.toNat), (0x12#8, s.burner0.prevDuty.toNat),
        (0x13#8, s.burner0.relay.toNat), (0x14#8, s.burner0.lastT.toNat), (0x15#8, s.burner0.filter.sum.toNat),
        (0x16#8, s.burner0.filter.cur.toNat),
        (0x18#8, s.burner1.filter.cv.toNat), (0x19#8, s.burner1.duty.toNat), (0x1A#8, s.burner1.prevDuty.toNat),
        (0x1B#8, s.burner1.relay.toNat), (0x1C#8, s.burner1.lastT.toNat), (0x1D#8, s.burner1.filter.sum.toNat),
        (0x1E#8, s.burner1.filter.cur.toNat),
        (0x20#8, s.oven.filter.cv.toNat), (0x22#8, s.oven.sp.toNat),
        (0x23#8, match s.oven.mode with | .off => 0 | .bake => 1 | .broil => 2), (0x24#8, s.oven.bake.toNat),
        (0x25#8, s.oven.broil.toNat), (0x26#8, s.oven.lastT.toNat), (0x27#8, s.oven.filter.sum.toNat),
        (0x28#8, s.oven.filter.cur.toNat),
        (0x30#8, s.budget.totDuty.toNat), (0x31#8, s.budget.totW.toNat), (0x32#8, s.budget.gridW.toNat),
        (0x33#8, s.budget.battW.toNat), (0x34#8, s.pca.toNat)] →
      (readIndex b.1 s).map BitVec.toNat = some b.2) ∧
    readIndex 0x00#8 s = some (statusWord s) ∧
    (readIndex 0x21#8 s).map BitVec.toInt = some s.oven.temp.toInt ∧
    (∀ k : Fin 10,
      (readIndex (BitVec.ofNat 8 (0x40 + k.val)) s).map BitVec.toNat = some (s.burner0.filter.buf[k.val]).toNat ∧
      (readIndex (BitVec.ofNat 8 (0x50 + k.val)) s).map BitVec.toNat = some (s.burner1.filter.buf[k.val]).toNat ∧
      (readIndex (BitVec.ofNat 8 (0x60 + k.val)) s).map BitVec.toNat = some (s.oven.filter.buf[k.val]).toNat)

/-- R63: an index outside R61's table has no value, and RDREG of it writes 0 to `RDATA` and raises BAD_REG, in every
run state; an index inside the table has a value. -/
def Obligations.UnmappedIndexIsBadReg : Prop :=
  ∀ (s : State) (idx : BitVec 8),
    (MappedIndex idx → (readIndex idx s).isSome = true) ∧
    (¬ MappedIndex idx → readIndex idx s = none ∧
      exec (.rdreg idx) s =
        .next { s with rdata := 0#32, err := true, errCode := if s.err = true then s.errCode else 4#3 })

/-- R45: the STATUS layout, field by field, its hardwired zeros, and its reset value. -/
def Obligations.StatusLayout : Prop :=
  (∀ s : State,
    (statusWord s).getLsbD 0 = s.run ∧ (statusWord s).getLsbD 1 = s.halt ∧ (statusWord s).getLsbD 2 = s.err ∧
    (statusWord s).getLsbD 3 = false ∧ (statusWord s).extractLsb' 4 3 = s.errCode ∧
    (statusWord s).getLsbD 7 = false ∧ (statusWord s).getLsbD 8 = s.pca ∧
    ((statusWord s).extractLsb' 9 2).toNat = (match s.oven.mode with | .off => 0 | .bake => 1 | .broil => 2) ∧
    (statusWord s).getLsbD 11 = s.burner0.relay ∧ (statusWord s).getLsbD 12 = s.burner1.relay ∧
    (statusWord s).getLsbD 13 = s.oven.bake ∧ (statusWord s).getLsbD 14 = s.oven.broil ∧
    (statusWord s).extractLsb' 15 17 = 0#17) ∧
  statusWord State.reset = 0x00000000#32

/-- R47: no hidden state. Two states that agree on every index, on `RUN`, `HALT`, `ERR`, `ERRCODE` and on `RDATA`
are equal (the events the host still holds, `pending`, are the model's own and are compared apart). -/
def Obligations.NoHiddenState : Prop :=
  ∀ s t : State, (∀ idx, readIndex idx s = readIndex idx t) → s.run = t.run → s.halt = t.halt → s.err = t.err →
    s.errCode = t.errCode → s.rdata = t.rdata → s.pending = t.pending → s = t

/-- R218, R62: RDREG of a mapped index completes in every run state, and changes `RDATA` alone. -/
def Obligations.RdregReadsMappedIndex : Prop :=
  ∀ (s : State) (idx : BitVec 8) (v : Word), readIndex idx s = some v →
    exec (.rdreg idx) s = .next { s with rdata := v }

/-- R68: RDREG changes only `RDATA`, plus the error record when the index is unmapped; read twice it gives the same
state; a latch write twice is a latch write once. -/
def Obligations.ReadsHaveNoSideEffects : Prop :=
  (∀ (s : State) (idx : BitVec 8), ∃ t, exec (.rdreg idx) s = .next t ∧
    { t with rdata := s.rdata, err := s.err, errCode := s.errCode } = s ∧
    ((readIndex idx s).isSome = true → t.err = s.err ∧ t.errCode = s.errCode) ∧
    exec (.rdreg idx) t = .next t) ∧
  (∀ (s t : State) (sel : InputSel) (v : BitVec 16), exec (.setin sel v) s = .next t →
    exec (.setin sel v) t = .next t) ∧
  (∀ (s t : State) (v : BitVec 16), exec (.settl v) s = .next t → exec (.settl v) t = .next t) ∧
  (∀ (s t : State) (v : BitVec 16), exec (.setth v) s = .next t → exec (.setth v) t = .next t)

/-! ## The commands but TICK -/

/-- R211: NOP completes in every state and changes nothing. -/
def Obligations.NopChangesNothing : Prop :=
  ∀ s : State, exec .nop s = .next s

/-- R212, R83, R66: outside HALTED SETIN stores `min(VAL, 4095)` in the selected latch and changes nothing else. -/
def Obligations.SetinLoadsOneClampedLatch : Prop :=
  ∀ (s : State) (sel : InputSel) (val : BitVec 16), s.halt = false →
    ∃ t, exec (.setin sel val) s = .next t ∧ (readInput sel t).toNat = min val.toNat 4095 ∧
      (∀ other, other ≠ sel → readInput other t = readInput other s) ∧
      { t with in0 := s.in0, in1 := s.in1, in2 := s.in2, in3 := s.in3 } = s

/-- R213, R214, R66: outside HALTED SETTL writes `NOW[15:0]` and SETTH `NOW[31:16]`; the other half and every other
element stay. -/
def Obligations.ClockHalvesAreLoadedApart : Prop :=
  ∀ (s : State) (val : BitVec 16), s.halt = false →
    (∃ t, exec (.settl val) s = .next t ∧ t.now.toNat = s.now.toNat / 65536 * 65536 + val.toNat ∧
      { t with now := s.now } = s) ∧
    (∃ t, exec (.setth val) s = .next t ∧ t.now.toNat = val.toNat * 65536 + s.now.toNat % 65536 ∧
      { t with now := s.now } = s)

/-- R220: START in IDLE enters RUNNING when the sink initialised and HALTED when it failed, and changes nothing
else. -/
def Obligations.StartLeavesIdle : Prop :=
  ∀ s : State, s.run = false → s.halt = false →
    exec (.start true) s = .next { s with run := true } ∧ exec (.start false) s = .next { s with halt := true }

/-- R215, R220, R251, R253: TICK in IDLE and START in RUNNING record BAD_STATE (code 3) and change nothing else. -/
def Obligations.WrongRunStateRecordsCodeThree : Prop :=
  ∀ s : State, s.halt = false →
    (s.run = false → exec .tick s =
      .next { s with err := true, errCode := if s.err = true then s.errCode else 3#3 }) ∧
    (s.run = true → ∀ k, exec (.start k) s =
      .next { s with err := true, errCode := if s.err = true then s.errCode else 3#3 })

/-- R221: outside HALTED CLRERR clears the error record and changes nothing else, `PCA` included. -/
def Obligations.ClrerrClearsTheRecord : Prop :=
  ∀ s : State, s.halt = false → exec .clrerr s = .next { s with err := false, errCode := 0#3 }

/-- R222, R281: RST gives every element its reset value, in every run state (later host events stay, assumption
1). -/
def Obligations.RstResetsEveryElement : Prop :=
  ∀ s : State, exec .rst s = .next { State.reset with pending := s.pending }

/-- R106, R21, R46: every command but TICK and RST completes in every state and leaves the filters, the burners, the
cycle timer, the oven, the power budget and `PCA` as they were. -/
def Obligations.OnlyTickAndResetChangeControlState : Prop :=
  ∀ (i : Instr) (s : State), i ≠ .tick → i ≠ .rst →
    ∃ t, exec i s = .next t ∧ t.cycStart = s.cycStart ∧ t.cycPos = s.cycPos ∧ t.burner0 = s.burner0 ∧
      t.burner1 = s.burner1 ∧ t.oven = s.oven ∧ t.budget = s.budget ∧ t.pca = s.pca ∧ t.pending = s.pending

/-- R253: `ERR` is sticky. While it stays set the code stays, and only CLRERR outside HALTED or a reset clears it. -/
def Obligations.ErrorRecordIsSticky : Prop :=
  ∀ s t : State, step s = .next t → s.err = true →
    (t.err = true ∧ t.errCode = s.errCode) ∨ ResetsNext s ∨
      (s.halt = false ∧ s.pending.head? = some (.command 0x31000000#32) ∧ t.err = false ∧ t.errCode = 0#3)

/-! ## TICK -/

/-- R67, R215, R287: in RUNNING a TICK runs to completion when the write cursors name slots (assumption 4); the clock latch, the input latches, the run state, the
error record and `RDATA` stay. -/
def Obligations.TickRunsToCompletion : Prop :=
  ∀ s : State, Running s → CursorsLegal s →
    ∃ t, exec .tick s = .next t ∧ t.now = s.now ∧ (∀ sel, readInput sel t = readInput sel s) ∧ t.run = s.run ∧
      t.halt = s.halt ∧ t.err = s.err ∧ t.errCode = s.errCode ∧ t.rdata = s.rdata ∧ t.pending = s.pending

/-- R140: the cycle restarts at the tick's time when more than 30000 ms have passed; else the start stays and the
position is the elapsed time. -/
def Obligations.TickAdvancesTheCycle : Prop :=
  ∀ s : State, Running s → CursorsLegal s →
    ∃ t, exec .tick s = .next t ∧
      (30000 < (s.now - s.cycStart).toNat → t.cycStart = s.now ∧ t.cycPos = 0#_) ∧
      ((s.now - s.cycStart).toNat ≤ 30000 → t.cycStart = s.cycStart ∧ t.cycPos = s.now - s.cycStart)

/-- R100, R101, R102: each filter takes its own latch once, by the ring-buffer update on exact sums. -/
def Obligations.TickUpdatesTheFilters : Prop :=
  ∀ s : State, Running s → FilterLegal s.burner0.filter → FilterLegal s.burner1.filter → FilterLegal s.oven.filter →
    ∃ t, exec .tick s = .next t ∧ FilterStepSpec s.burner0.filter s.in0 t.burner0.filter ∧
      FilterStepSpec s.burner1.filter s.in1 t.burner1.filter ∧ FilterStepSpec s.oven.filter s.in3 t.oven.filter

/-- R120, R121, R122: `PREV_DUTY` takes the held duty, and the new duty is the raw duty when the two differ by more
than 2, and the held duty otherwise. -/
def Obligations.TickMapsTheDuty : Prop :=
  ∀ s : State, Running s → CursorsLegal s →
    ∃ t, exec .tick s = .next t ∧ ∀ c : Chan,
      (burnerOf c t).prevDuty = (burnerOf c s).duty ∧
      (2 < ((rawDuty (burnerOf c t).filter.cv : Int) - ((burnerOf c s).duty.toNat : Int)).natAbs →
        (burnerOf c t).duty.toNat = rawDuty (burnerOf c t).filter.cv) ∧
      (((rawDuty (burnerOf c t).filter.cv : Int) - ((burnerOf c s).duty.toNat : Int)).natAbs ≤ 2 →
        (burnerOf c t).duty = (burnerOf c s).duty)

/-- R141, R142, R143, R147: the relay follows the intended state of this tick's duty and position once 50 ms have
passed since its last transition; a blocked or absent transition writes nothing. -/
def Obligations.TickDecidesTheRelay : Prop :=
  ∀ s : State, Running s → CursorsLegal s →
    ∃ t, exec .tick s = .next t ∧ ∀ c : Chan, ∀ on : Bool,
      (on = true ↔ 30 ≤ (burnerOf c t).duty.toNat ∨ t.cycPos.toNat < 1000 * (burnerOf c t).duty.toNat) →
      (on ≠ (burnerOf c s).relay ∧ 50 ≤ (s.now - (burnerOf c s).lastT).toNat →
        (burnerOf c t).relay = on ∧ (burnerOf c t).lastT = s.now) ∧
      (on = (burnerOf c s).relay ∨ (s.now - (burnerOf c s).lastT).toNat < 50 →
        (burnerOf c t).relay = (burnerOf c s).relay ∧ (burnerOf c t).lastT = (burnerOf c s).lastT)

/-- R160, R161, R162: the setpoint is the raw potentiometer quantised to steps of 25, the mode is a pure function of
it, and the temperature is the open conversion of the conditioned sensor value (assumption 3). -/
def Obligations.TickReadsTheOvenInputs : Prop :=
  ∀ s : State, Running s → CursorsLegal s →
    ∃ t, exec .tick s = .next t ∧ t.oven.sp.toNat = min (s.in2.toNat * 22 / 4095 * 25) 550 ∧
      (t.oven.mode = .off ↔ t.oven.sp.toNat = 0) ∧
      (t.oven.mode = .bake ↔ 0 < t.oven.sp.toNat ∧ t.oven.sp.toNat < 550) ∧
      (t.oven.mode = .broil ↔ 550 ≤ t.oven.sp.toNat) ∧
      t.oven.temp = config.tempConv t.oven.filter.cv

/-- R164, R165, R166: by this tick's mode, which the potentiometer latch fixes (0..186 Off, 187..4094 Bake, 4095
Broil): Off forces both oven relays to 0 and Broil both to 1, whatever they were, whatever the temperature and the
time; Bake forces the broil relay to 0. -/
def Obligations.ModeForcesOvenRelays : Prop :=
  ∀ s : State, Running s → CursorsLegal s →
    ∃ t, exec .tick s = .next t ∧
      (s.in2.toNat ≤ 186 → t.oven.mode = .off ∧ t.oven.bake = false ∧ t.oven.broil = false) ∧
      (187 ≤ s.in2.toNat ∧ s.in2.toNat ≤ 4094 → t.oven.mode = .bake ∧ t.oven.broil = false) ∧
      (s.in2.toNat = 4095 → t.oven.mode = .broil ∧ t.oven.bake = true ∧ t.oven.broil = true) ∧
      (t.oven.mode = .off → t.oven.bake = false ∧ t.oven.broil = false) ∧
      (t.oven.mode = .bake → t.oven.broil = false) ∧
      (t.oven.mode = .broil → t.oven.bake = true ∧ t.oven.broil = true)

/-- R163, R167, R168 with `OVEN_OFF_RULE = BAND` (assumption 6): in Bake mode the bake relay follows the hysteresis
on this tick's temperature and setpoint once 50 ms have passed since it last changed. -/
def Obligations.BakeRelayHysteresisAndDebounce : Prop :=
  ∀ s : State, Running s → CursorsLegal s → 187 ≤ s.in2.toNat → s.in2.toNat ≤ 4094 →
    ∃ t, exec .tick s = .next t ∧ ∀ want : Bool,
      ((t.oven.temp.toInt < (t.oven.sp.toNat : Int) - 2 → want = true) ∧
        ((t.oven.sp.toNat : Int) + 2 < t.oven.temp.toInt → want = false) ∧
        ((t.oven.sp.toNat : Int) - 2 ≤ t.oven.temp.toInt → t.oven.temp.toInt ≤ (t.oven.sp.toNat : Int) + 2 →
          want = s.oven.bake)) →
      (want ≠ s.oven.bake ∧ 50 ≤ (s.now - s.oven.lastT).toNat → t.oven.bake = want) ∧
      (want = s.oven.bake ∨ (s.now - s.oven.lastT).toNat < 50 → t.oven.bake = s.oven.bake)

/-- R163, R167: the intended state of the bake relay under both readings of the OFF condition, for every margin; that
this hardware takes `BAND` with a margin of 2 is the configuration's value (assumption 6). -/
def Obligations.BakeIntentUnderBothOffRules : Prop :=
  ∀ (cfg : Config) (temp : BitVec 16) (sp : BitVec 10) (old : Bool),
    (temp.toInt < (sp.toNat : Int) - cfg.hystTemp → bakeIntended cfg temp sp old = true) ∧
    (cfg.ovenOffRule = .threshold → (sp.toNat : Int) - cfg.hystTemp ≤ temp.toInt →
      bakeIntended cfg temp sp old = false) ∧
    (cfg.ovenOffRule = .band → (sp.toNat : Int) + cfg.hystTemp < temp.toInt →
      bakeIntended cfg temp sp old = false) ∧
    (cfg.ovenOffRule = .band → (sp.toNat : Int) - cfg.hystTemp ≤ temp.toInt →
      temp.toInt ≤ (sp.toNat : Int) + cfg.hystTemp → bakeIntended cfg temp sp old = old) ∧
    config.hystTemp = 2 ∧ config.ovenOffRule = .band

/-- R169: `OVEN_LASTT` takes the tick's time exactly when `R_BAKE` changes, in every mode. -/
def Obligations.OvenTimestampFollowsBakeRelay : Prop :=
  ∀ s : State, Running s → CursorsLegal s →
    ∃ t, exec .tick s = .next t ∧ (t.oven.bake ≠ s.oven.bake → t.oven.lastT = s.now) ∧
      (t.oven.bake = s.oven.bake → t.oven.lastT = s.oven.lastT)

/-- R190, R191, R192: what a tick bills. Each burner whose relay is on is billed at its full duty, the oven by its
mode and bake relay, all as this tick leaves them; the totals do not exceed 100 units and 9000 W. -/
def Obligations.TickBillsWhatIsOn : Prop :=
  ∀ s : State, Running s → CursorsLegal s → s.burner0.duty.toNat ≤ 30 → s.burner1.duty.toNat ≤ 30 →
    ∃ t, exec .tick s = .next t ∧
      t.budget.totDuty.toNat =
        (match t.oven.mode with | .broil => 40 | .bake => (if t.oven.bake = true then 30 else 0) | .off => 0) +
        (if t.burner0.relay = true then t.burner0.duty.toNat else 0) +
        (if t.burner1.relay = true then t.burner1.duty.toNat else 0) ∧
      t.budget.totW.toNat =
        (match t.oven.mode with | .broil => 3000 | .bake => (if t.oven.bake = true then 2585 else 0) | .off => 0) +
        (if t.burner0.relay = true then t.burner0.duty.toNat * 100 else 0) +
        (if t.burner1.relay = true then t.burner1.duty.toNat * 100 else 0) ∧
      t.budget.totDuty.toNat ≤ 100 ∧ t.budget.totW.toNat ≤ 9000

/-- R193, R194, R195, R197: the split between grid and battery, its conservation, and the overload flag, which is set
when more than 4500 W are requested and cleared otherwise. -/
def Obligations.TickSplitsPowerAndSetsOverload : Prop :=
  ∀ s : State, Running s → CursorsLegal s → s.burner0.duty.toNat ≤ 30 → s.burner1.duty.toNat ≤ 30 →
    ∃ t, exec .tick s = .next t ∧
      t.budget.gridW.toNat = min t.budget.totW.toNat 1500 ∧
      t.budget.battW.toNat = min (t.budget.totW.toNat - t.budget.gridW.toNat) 3000 ∧
      t.budget.gridW.toNat + t.budget.battW.toNat = min t.budget.totW.toNat 4500 ∧
      t.budget.gridW.toNat ≤ 1500 ∧ t.budget.battW.toNat ≤ 3000 ∧
      (t.pca = true ↔ t.budget.gridW.toNat + t.budget.battW.toNat < t.budget.totW.toNat) ∧
      (t.pca = true ↔ 4500 < t.budget.totW.toNat)

/-- R196: the source's end-to-end example, two burners at 30 and on, the oven baking with its relay on. -/
def Obligations.SourceOverloadExample : Prop :=
  ∀ s : State, s.burner0.duty = 30#5 → s.burner0.relay = true → s.burner1.duty = 30#5 → s.burner1.relay = true →
    s.oven.mode = .bake → s.oven.bake = true →
    arbitrate s = { s with budget := ⟨90#7, 8585#16, 1500#16, 3000#16⟩, pca := true }

/-- R36, R39, R122, R192, R198, R217: a TICK reads no register that is kept for report only: not `PCA` or the budget
of the last tick (the flag gates nothing), not `PREV_DUTY`, `CV`, `CYC_POS`, `TEMP`, `SP`, `MODE` or `R_BROIL`. -/
def Obligations.TickReadsNoReportRegister : Prop :=
  ∀ (s : State) (flag broil : Bool) (bud : Budget) (pos : Word) (d0 d1 : BitVec 5) (c0 c1 c2 : Sample)
    (temp : BitVec 16) (sp : BitVec 10) (m : OvenMode), Running s → CursorsLegal s →
    ∃ t, exec .tick s = .next t ∧
      exec .tick
        { s with
          pca := flag, budget := bud, cycPos := pos
          burner0 := { s.burner0 with prevDuty := d0, filter := { s.burner0.filter with cv := c0 } }
          burner1 := { s.burner1 with prevDuty := d1, filter := { s.burner1.filter with cv := c1 } }
          oven :=
            { s.oven with
              temp := temp, sp := sp, mode := m, broil := broil, filter := { s.oven.filter with cv := c2 } } } =
        .next t

/-- R288: a clock that steps back by 0 < d < 2^32 - 30000 ms against the cycle start restarts the cycle at the tick's
time. -/
def Obligations.BackwardClockRestartsCycle : Prop :=
  ∀ (s : State) (d : Nat), Running s → CursorsLegal s → 0 < d → d < 4294967296 - 30000 →
    s.now = s.cycStart - BitVec.ofNat _ d →
    ∃ t, exec .tick s = .next t ∧ t.cycStart = s.now ∧ t.cycPos = 0#_

/-- R287: a second TICK with no new time and no new samples makes no debounced transition against a timestamp the
first one wrote: a burner relay that the first TICK changed stays in the second, and so does the bake relay (its mode
cannot have changed, because the potentiometer latch has not). -/
def Obligations.RepeatedTimeBlocksTransitions : Prop :=
  ∀ s : State, Running s → CursorsLegal s →
    ∃ t u, exec .tick s = .next t ∧ exec .tick t = .next u ∧
      (∀ c : Chan, (burnerOf c t).relay ≠ (burnerOf c s).relay → (burnerOf c u).relay = (burnerOf c t).relay) ∧
      (t.oven.bake ≠ s.oven.bake → u.oven.bake = t.oven.bake)

/-! ## Properties over sequences of samples and positions -/

/-- R103: after at least ten updates of a filter the conditioned value is the floored mean of the last ten samples,
from the reset filter and from every legal one. -/
def Obligations.MovingAverageOfLastTenSamples : Prop :=
  ∀ (f : RingFilter config) (xs : List Sample), FilterLegal f → 10 ≤ xs.length →
    ∃ g, feed config xs f = some g ∧ g.cv.toNat = ((xs.drop (xs.length - 10)).map BitVec.toNat).sum / 10

/-- R104: with fewer than ten updates since reset the slots not yet written count as 0. -/
def Obligations.WarmUpCountsZeroSlots : Prop :=
  ∀ xs : List Sample, xs.length < 10 →
    ∃ g, feed config xs RingFilter.zero = some g ∧ g.cv.toNat = (xs.map BitVec.toNat).sum / 10

/-- R124: while the raw duty stays within 2 of the held duty the duty never changes, and the first raw duty outside
that band is adopted exactly. -/
def Obligations.HysteresisStability : Prop :=
  ∀ (held : BitVec 5) (cvs : List Sample),
    (∀ cv ∈ cvs, ((rawDuty cv : Int) - (held.toNat : Int)).natAbs ≤ 2) →
    cvs.foldl (fun d cv => dutyMap config cv d) held = held ∧
    ∀ cv : Sample, 2 < ((rawDuty cv : Int) - (held.toNat : Int)).natAbs →
      ((cvs ++ [cv]).foldl (fun d cv => dutyMap config cv d) held).toNat = rawDuty cv

/-- R145: for a duty d below 30, exactly 1000 d of the 30000 positions of a cycle intend ON; duty 30 intends ON at
every position, position 30000 included (R142, C1). -/
def Obligations.OnTimePerCycle : Prop :=
  (∀ d : Nat, d < 30 → (List.range 30000).countP (fun pos => intended config d pos) = 1000 * d) ∧
  (∀ d : Nat, d < 30 → intended config d 30000 = false) ∧ ∀ pos : Nat, intended config 30 pos = true

/-! ## Invariants and whole-machine rules -/

/-- R20, R281: the state after reset is legal. -/
def Obligations.ResetIsLegal : Prop := Legal State.reset

/-- R20, R25, R26, R28, R33, R35, R36, R43, R44, R102, R192, R197: every step keeps every element in its legal values
and keeps the relations between elements. -/
def Obligations.EveryStepKeepsLegality : Prop :=
  ∀ s t : State, Legal s → step s = .next t → Legal t

/-- R67, R86: from a legal state no run ever stops, whatever events are pending (assumption 1). -/
def Obligations.LegalRunsNeverStop : Prop :=
  ∀ (k : Nat) (s : State), Legal s → ∃ t, Host.Core.run Sys2Proof.core k s = .next t ∧ Legal t

/-- R259, R283: outside RUNNING every relay line is off, and every step keeps it so. -/
def Obligations.RelaysStayOffUnlessRunning : Prop :=
  ∀ s t : State, RelaysOffUnlessRunning s → step s = .next t → RelaysOffUnlessRunning t

/-- R43, R258: only a reset leaves HALTED, and only START with SINK_OK = 0 in IDLE enters it. -/
def Obligations.OnlyResetLeavesHalted : Prop :=
  ∀ s t : State, step s = .next t →
    (s.halt = true → t.halt = false → ResetsNext s) ∧
    (s.halt = false → t.halt = true → s.run = false ∧ s.pending.head? = some (.command 0x30000000#32))

/-- R143, R144: two transitions of one burner's relay with none between them (assumption 12) and no reset from the
first to the second happen in ticks at least 50 ms apart on the block's clock. -/
def Obligations.DebounceBetweenTransitions : Prop :=
  ∀ (c : Chan) (s0 s1 s2 s3 : State),
    step s0 = .next s1 → ¬ ResetsNext s0 → (burnerOf c s1).relay ≠ (burnerOf c s0).relay →
    QuietBurner c s1 s2 →
    step s2 = .next s3 → ¬ ResetsNext s2 → (burnerOf c s3).relay ≠ (burnerOf c s2).relay →
    TicksNext s0 ∧ TicksNext s2 ∧ 50 ≤ (s2.now - s0.now).toNat

/-- R169, R171: a change of the bake relay in Bake mode is at least 50 ms after the previous change, forced or
debounced, with no reset from the first to the second (assumption 12). -/
def Obligations.BakeChangesAreDebounced : Prop :=
  ∀ s0 s1 s2 s3 : State,
    step s0 = .next s1 → ¬ ResetsNext s0 → s1.oven.bake ≠ s0.oven.bake →
    QuietBake s1 s2 →
    step s2 = .next s3 → ¬ ResetsNext s2 → s3.oven.bake ≠ s2.oven.bake → s3.oven.mode = .bake →
    TicksNext s0 ∧ TicksNext s2 ∧ 50 ≤ (s2.now - s0.now).toNat

/-! ## The configuration -/

/-- R7: the values this hardware takes for the constants, and the two derived constants. The one open constant,
`TEMP_CONV`, has no value here (assumption 3); the values of `OVEN_OFF_RULE` and `GATE_MODE` are those of assumptions 6 and
7. -/
def Obligations.ConfigurationValues : Prop :=
  config.nBurners = 2 ∧ config.nSamples = 10 ∧ config.adcMax = 4095 ∧ config.dutyMax = 30 ∧ config.hystDuty = 2 ∧
  config.hystTemp = 2 ∧ config.cycleMs = 30000 ∧ config.debounceMs = 50 ∧ config.maxGridW = 1500 ∧
  config.maxBattW = 3000 ∧ config.wPerDuty = 100 ∧ config.ovenStep = 25 ∧ config.ovenMax = 550 ∧
  config.ovenBroilW = 3000 ∧ config.ovenBakeW = 2585 ∧ config.ovenBroilDuty = 40 ∧ config.ovenBakeDuty = 30 ∧
  config.clockBits = 32 ∧ config.ovenOffRule = .band ∧ config.gateMode = .faithful ∧
  ovenSteps config = 22 ∧ maxSupplyW config = 4500
end

