-- ==== Sys2Proof/Laws/Config.lean ====
section
/-! SUPPORT. The derived constants on this hardware (00_scope.md R7). `config` is reducible, so `simp` computes its
fields by itself and they need no lemma of their own. -/

namespace Sys2Proof.Machine

@[simp] theorem ovenSteps_config : ovenSteps config = 22 := rfl
@[simp] theorem maxSupplyW_config : maxSupplyW config = 4500 := rfl

/-- This hardware ticks and bills both channels (R2, R7). -/
@[simp] theorem channels_config : channels config = [.b0, .b1] := rfl

end Sys2Proof.Machine
end

