-- ==== Sys2Proof/Laws/Decode.lean ====
section
/-! SUPPORT. What the decoder can answer, said once (30_encoding.md R82, R85). -/

namespace Sys2Proof

/-- The opcode map on the byte: an opcode is read from its own byte alone (R82). -/
theorem ofByte_eq_some_iff (b : Byte) (op : Opcode) : Opcode.ofByte b = some op ↔ b = op.byte := by
  revert b
  cases op <;> decide

/-- A word that matches a row carries the row's opcode byte: every mask covers the byte (R82). -/
theorem opcByte_of_match {w : Word} {op : Opcode} (h : w &&& op.mask = op.pattern) : opcByte w = op.byte := by
  have hm : opcByte (w &&& op.mask) = opcByte w := by
    apply BitVec.eq_of_getLsbD_eq
    intro i hi
    have hb : op.mask.getLsbD (24 + i) = true := by cases op <;> interval_cases i <;> rfl
    simp [opcByte, hb]
  rw [← hm, h]
  cases op <;> rfl

/-- A word that matches a row decodes to that row's command (R82). -/
theorem decode_of_match {w : Word} {op : Opcode} (h : w &&& op.mask = op.pattern) :
    decode w = .cmd (op.operands w) := by
  unfold decode
  rw [(ofByte_eq_some_iff _ _).mpr (opcByte_of_match h)]
  exact if_pos h

/-- A word that decodes to a command matches the row of that command's opcode (R82). -/
theorem match_of_decode {w : Word} {i : Instr} (h : decode w = .cmd i) :
    ∃ op : Opcode, w &&& op.mask = op.pattern ∧ i = op.operands w := by
  unfold decode at h
  split at h
  · cases h
  · next op _ =>
    split at h
    · next hm => exact ⟨op, hm, (Decoded.cmd.inj h).symm⟩
    · cases h

end Sys2Proof
end

