-- ==== Sys2Proof/Laws/State.lean ====
section
/-! SUPPORT. One lemma for each field of the state under each named update, so that no later proof unfolds an
update. -/

namespace Sys2Proof.Machine

/-! ### `clearError` -/

@[simp] theorem clearError_now (s : State) : (clearError s).now = s.now := rfl
@[simp] theorem clearError_in0 (s : State) : (clearError s).in0 = s.in0 := rfl
@[simp] theorem clearError_in1 (s : State) : (clearError s).in1 = s.in1 := rfl
@[simp] theorem clearError_in2 (s : State) : (clearError s).in2 = s.in2 := rfl
@[simp] theorem clearError_in3 (s : State) : (clearError s).in3 = s.in3 := rfl
@[simp] theorem clearError_cycStart (s : State) : (clearError s).cycStart = s.cycStart := rfl
@[simp] theorem clearError_cycPos (s : State) : (clearError s).cycPos = s.cycPos := rfl
@[simp] theorem clearError_burner0 (s : State) : (clearError s).burner0 = s.burner0 := rfl
@[simp] theorem clearError_burner1 (s : State) : (clearError s).burner1 = s.burner1 := rfl
@[simp] theorem clearError_oven (s : State) : (clearError s).oven = s.oven := rfl
@[simp] theorem clearError_budget (s : State) : (clearError s).budget = s.budget := rfl
@[simp] theorem clearError_pca (s : State) : (clearError s).pca = s.pca := rfl
@[simp] theorem clearError_run (s : State) : (clearError s).run = s.run := rfl
@[simp] theorem clearError_halt (s : State) : (clearError s).halt = s.halt := rfl
@[simp] theorem clearError_err (s : State) : (clearError s).err = false := rfl
@[simp] theorem clearError_errCode (s : State) : (clearError s).errCode = 0#3 := rfl
@[simp] theorem clearError_rdata (s : State) : (clearError s).rdata = s.rdata := rfl
@[simp] theorem clearError_pending (s : State) : (clearError s).pending = s.pending := rfl

/-! ### `recorded` -/

@[simp] theorem recorded_now (code : BitVec 3) (s : State) : (recorded code s).now = s.now := rfl
@[simp] theorem recorded_in0 (code : BitVec 3) (s : State) : (recorded code s).in0 = s.in0 := rfl
@[simp] theorem recorded_in1 (code : BitVec 3) (s : State) : (recorded code s).in1 = s.in1 := rfl
@[simp] theorem recorded_in2 (code : BitVec 3) (s : State) : (recorded code s).in2 = s.in2 := rfl
@[simp] theorem recorded_in3 (code : BitVec 3) (s : State) : (recorded code s).in3 = s.in3 := rfl
@[simp] theorem recorded_cycStart (code : BitVec 3) (s : State) : (recorded code s).cycStart = s.cycStart := rfl
@[simp] theorem recorded_cycPos (code : BitVec 3) (s : State) : (recorded code s).cycPos = s.cycPos := rfl
@[simp] theorem recorded_burner0 (code : BitVec 3) (s : State) : (recorded code s).burner0 = s.burner0 := rfl
@[simp] theorem recorded_burner1 (code : BitVec 3) (s : State) : (recorded code s).burner1 = s.burner1 := rfl
@[simp] theorem recorded_oven (code : BitVec 3) (s : State) : (recorded code s).oven = s.oven := rfl
@[simp] theorem recorded_budget (code : BitVec 3) (s : State) : (recorded code s).budget = s.budget := rfl
@[simp] theorem recorded_pca (code : BitVec 3) (s : State) : (recorded code s).pca = s.pca := rfl
@[simp] theorem recorded_run (code : BitVec 3) (s : State) : (recorded code s).run = s.run := rfl
@[simp] theorem recorded_halt (code : BitVec 3) (s : State) : (recorded code s).halt = s.halt := rfl
@[simp] theorem recorded_err (code : BitVec 3) (s : State) : (recorded code s).err = true := rfl
@[simp] theorem recorded_errCode (code : BitVec 3) (s : State) : (recorded code s).errCode = if s.err = true then s.errCode else code := rfl
@[simp] theorem recorded_rdata (code : BitVec 3) (s : State) : (recorded code s).rdata = s.rdata := rfl
@[simp] theorem recorded_pending (code : BitVec 3) (s : State) : (recorded code s).pending = s.pending := rfl

/-! ### `writeInput` -/

@[simp] theorem writeInput_now (sel : InputSel) (v : Sample) (s : State) : (writeInput sel v s).now = s.now := by cases sel <;> rfl
@[simp] theorem writeInput_cycStart (sel : InputSel) (v : Sample) (s : State) : (writeInput sel v s).cycStart = s.cycStart := by cases sel <;> rfl
@[simp] theorem writeInput_cycPos (sel : InputSel) (v : Sample) (s : State) : (writeInput sel v s).cycPos = s.cycPos := by cases sel <;> rfl
@[simp] theorem writeInput_burner0 (sel : InputSel) (v : Sample) (s : State) : (writeInput sel v s).burner0 = s.burner0 := by cases sel <;> rfl
@[simp] theorem writeInput_burner1 (sel : InputSel) (v : Sample) (s : State) : (writeInput sel v s).burner1 = s.burner1 := by cases sel <;> rfl
@[simp] theorem writeInput_oven (sel : InputSel) (v : Sample) (s : State) : (writeInput sel v s).oven = s.oven := by cases sel <;> rfl
@[simp] theorem writeInput_budget (sel : InputSel) (v : Sample) (s : State) : (writeInput sel v s).budget = s.budget := by cases sel <;> rfl
@[simp] theorem writeInput_pca (sel : InputSel) (v : Sample) (s : State) : (writeInput sel v s).pca = s.pca := by cases sel <;> rfl
@[simp] theorem writeInput_run (sel : InputSel) (v : Sample) (s : State) : (writeInput sel v s).run = s.run := by cases sel <;> rfl
@[simp] theorem writeInput_halt (sel : InputSel) (v : Sample) (s : State) : (writeInput sel v s).halt = s.halt := by cases sel <;> rfl
@[simp] theorem writeInput_err (sel : InputSel) (v : Sample) (s : State) : (writeInput sel v s).err = s.err := by cases sel <;> rfl
@[simp] theorem writeInput_errCode (sel : InputSel) (v : Sample) (s : State) : (writeInput sel v s).errCode = s.errCode := by cases sel <;> rfl
@[simp] theorem writeInput_rdata (sel : InputSel) (v : Sample) (s : State) : (writeInput sel v s).rdata = s.rdata := by cases sel <;> rfl
@[simp] theorem writeInput_pending (sel : InputSel) (v : Sample) (s : State) : (writeInput sel v s).pending = s.pending := by cases sel <;> rfl

/-! ### `arbitrate` -/

@[simp] theorem arbitrate_now (s : State) : (arbitrate s).now = s.now := rfl
@[simp] theorem arbitrate_in0 (s : State) : (arbitrate s).in0 = s.in0 := rfl
@[simp] theorem arbitrate_in1 (s : State) : (arbitrate s).in1 = s.in1 := rfl
@[simp] theorem arbitrate_in2 (s : State) : (arbitrate s).in2 = s.in2 := rfl
@[simp] theorem arbitrate_in3 (s : State) : (arbitrate s).in3 = s.in3 := rfl
@[simp] theorem arbitrate_cycStart (s : State) : (arbitrate s).cycStart = s.cycStart := rfl
@[simp] theorem arbitrate_cycPos (s : State) : (arbitrate s).cycPos = s.cycPos := rfl
@[simp] theorem arbitrate_burner0 (s : State) : (arbitrate s).burner0 = s.burner0 := rfl
@[simp] theorem arbitrate_burner1 (s : State) : (arbitrate s).burner1 = s.burner1 := rfl
@[simp] theorem arbitrate_oven (s : State) : (arbitrate s).oven = s.oven := rfl
@[simp] theorem arbitrate_run (s : State) : (arbitrate s).run = s.run := rfl
@[simp] theorem arbitrate_halt (s : State) : (arbitrate s).halt = s.halt := rfl
@[simp] theorem arbitrate_err (s : State) : (arbitrate s).err = s.err := rfl
@[simp] theorem arbitrate_errCode (s : State) : (arbitrate s).errCode = s.errCode := rfl
@[simp] theorem arbitrate_rdata (s : State) : (arbitrate s).rdata = s.rdata := rfl
@[simp] theorem arbitrate_pending (s : State) : (arbitrate s).pending = s.pending := rfl

/-! ### `setBurner` -/

@[simp] theorem setBurner_now (c : Chan) (b : Burner config) (s : State) :
    (setBurner c b s).now = s.now := by cases c <;> rfl
@[simp] theorem setBurner_in0 (c : Chan) (b : Burner config) (s : State) :
    (setBurner c b s).in0 = s.in0 := by cases c <;> rfl
@[simp] theorem setBurner_in1 (c : Chan) (b : Burner config) (s : State) :
    (setBurner c b s).in1 = s.in1 := by cases c <;> rfl
@[simp] theorem setBurner_in2 (c : Chan) (b : Burner config) (s : State) :
    (setBurner c b s).in2 = s.in2 := by cases c <;> rfl
@[simp] theorem setBurner_in3 (c : Chan) (b : Burner config) (s : State) :
    (setBurner c b s).in3 = s.in3 := by cases c <;> rfl
@[simp] theorem setBurner_cycStart (c : Chan) (b : Burner config) (s : State) :
    (setBurner c b s).cycStart = s.cycStart := by cases c <;> rfl
@[simp] theorem setBurner_cycPos (c : Chan) (b : Burner config) (s : State) :
    (setBurner c b s).cycPos = s.cycPos := by cases c <;> rfl
@[simp] theorem setBurner_oven (c : Chan) (b : Burner config) (s : State) :
    (setBurner c b s).oven = s.oven := by cases c <;> rfl
@[simp] theorem setBurner_budget (c : Chan) (b : Burner config) (s : State) :
    (setBurner c b s).budget = s.budget := by cases c <;> rfl
@[simp] theorem setBurner_pca (c : Chan) (b : Burner config) (s : State) :
    (setBurner c b s).pca = s.pca := by cases c <;> rfl
@[simp] theorem setBurner_run (c : Chan) (b : Burner config) (s : State) :
    (setBurner c b s).run = s.run := by cases c <;> rfl
@[simp] theorem setBurner_halt (c : Chan) (b : Burner config) (s : State) :
    (setBurner c b s).halt = s.halt := by cases c <;> rfl
@[simp] theorem setBurner_err (c : Chan) (b : Burner config) (s : State) :
    (setBurner c b s).err = s.err := by cases c <;> rfl
@[simp] theorem setBurner_errCode (c : Chan) (b : Burner config) (s : State) :
    (setBurner c b s).errCode = s.errCode := by cases c <;> rfl
@[simp] theorem setBurner_rdata (c : Chan) (b : Burner config) (s : State) :
    (setBurner c b s).rdata = s.rdata := by cases c <;> rfl
@[simp] theorem setBurner_pending (c : Chan) (b : Burner config) (s : State) :
    (setBurner c b s).pending = s.pending := by cases c <;> rfl

@[simp] theorem burnerOf_setBurner_same (c : Chan) (b : Burner config) (s : State) :
    burnerOf c (setBurner c b s) = b := by cases c <;> rfl

theorem burnerOf_setBurner_other (c d : Chan) (b : Burner config) (s : State) (h : d ≠ c) :
    burnerOf d (setBurner c b s) = burnerOf d s := by
  cases c <;> cases d <;> first | rfl | exact absurd rfl h

/-! ### `blockReset` -/

@[simp] theorem blockReset_eq (s : State) : blockReset s = { State.reset with pending := s.pending } := rfl
@[simp] theorem hardwareReset_eq (s : State) : hardwareReset s = { State.reset with pending := s.pending } := rfl

/-! ### The state after reset -/

@[simp] theorem reset_now : State.reset.now = 0#_ := rfl
@[simp] theorem reset_in0 : State.reset.in0 = 0#12 := rfl
@[simp] theorem reset_in1 : State.reset.in1 = 0#12 := rfl
@[simp] theorem reset_in2 : State.reset.in2 = 0#12 := rfl
@[simp] theorem reset_in3 : State.reset.in3 = 0#12 := rfl
@[simp] theorem reset_cycStart : State.reset.cycStart = 0#_ := rfl
@[simp] theorem reset_cycPos : State.reset.cycPos = 0#_ := rfl
@[simp] theorem reset_burner0 : State.reset.burner0 = Burner.zero := rfl
@[simp] theorem reset_burner1 : State.reset.burner1 = Burner.zero := rfl
@[simp] theorem reset_oven : State.reset.oven = Oven.zero := rfl
@[simp] theorem reset_budget : State.reset.budget = Budget.zero := rfl
@[simp] theorem reset_pca : State.reset.pca = false := rfl
@[simp] theorem reset_run : State.reset.run = false := rfl
@[simp] theorem reset_halt : State.reset.halt = false := rfl
@[simp] theorem reset_err : State.reset.err = false := rfl
@[simp] theorem reset_errCode : State.reset.errCode = 0#3 := rfl
@[simp] theorem reset_rdata : State.reset.rdata = 0#32 := rfl
@[simp] theorem reset_pending : State.reset.pending = [] := rfl

/-! ### Latches -/

@[simp] theorem readInput_writeInput_same (sel : InputSel) (v : Sample) (s : State) :
    readInput sel (writeInput sel v s) = v := by cases sel <;> rfl

theorem readInput_writeInput_other (sel other : InputSel) (v : Sample) (s : State) (h : other ≠ sel) :
    readInput other (writeInput sel v s) = readInput other s := by
  cases sel <;> cases other <;> first | rfl | exact absurd rfl h

end Sys2Proof.Machine
end

