-- ==== Sys2Proof/Laws/Ops.lean ====
section
/-! SUPPORT. One lemma for each shared operation that says once everything it can do; later proofs cite these
instead of unfolding the operation. -/

namespace Sys2Proof.Machine

/-! ### Errors, the HALTED gate, time -/

/-- Recording an error, in one form for both states of the record (R253). -/
theorem raiseError_eq_recorded (e : CmdError) (s : State) : raiseError e s = recorded (errorCode e) s := by
  unfold raiseError recorded
  split
  · next h => cases s; simp_all
  · next h => simp

theorem unlessHalted_of_halted {s : State} (h : s.halt = true) (act : State → Result) :
    unlessHalted s act = .next s := by simp [unlessHalted, h]

theorem unlessHalted_of_not_halted {s : State} (h : s.halt = false) (act : State → Result) :
    unlessHalted s act = act s := by simp [unlessHalted, h]

/-- What the HALTED gate can answer (R210). -/
theorem unlessHalted_cases {s t : State} {act : State → Result} (h : unlessHalted s act = .next t) :
    (s.halt = true ∧ t = s) ∨ (s.halt = false ∧ act s = .next t) := by
  cases hh : s.halt with
  | true =>
    rw [unlessHalted_of_halted hh] at h
    exact .inl ⟨rfl, (Host.Outcome.next.inj h).symm⟩
  | false =>
    rw [unlessHalted_of_not_halted hh] at h
    exact .inr ⟨rfl, h⟩

/-- A time on this hardware's clock is below 2 to the 32 (R11). -/
theorem time_lt (t : Time config) : t.toNat < 4294967296 := t.isLt

theorem tdiff_lt (a b : Time config) : tdiff a b < 4294967296 := (a - b).isLt

@[simp] theorem tdiff_self {w : Nat} (a : BitVec w) : tdiff a a = 0 := by simp [tdiff]

/-- SETIN's clamp on this hardware (R212). -/
theorem clampSample_toNat (val : BitVec 16) : (clampSample config val).toNat = min val.toNat 4095 := by
  simp only [clampSample, BitVec.toNat_ofNat]
  omega

/-- SETTL's half of the clock, as a number (R213). -/
theorem withLowHalf_toNat (now : Time config) (val : BitVec 16) :
    (withLowHalf now val).toNat = now.toNat / 65536 * 65536 + val.toNat := by
  have hn := time_lt now
  have hv := val.isLt
  unfold withLowHalf
  rw [BitVec.toNat_setWidth, BitVec.toNat_append, ← Nat.shiftLeft_add_eq_or_of_lt val.isLt]
  simp only [BitVec.extractLsb'_toNat, Nat.shiftRight_eq_div_pow, Nat.shiftLeft_eq]
  omega

/-- SETTH's half of the clock, as a number (R214). -/
theorem withHighHalf_toNat (now : Time config) (val : BitVec 16) :
    (withHighHalf now val).toNat = val.toNat * 65536 + now.toNat % 65536 := by
  have hv := val.isLt
  unfold withHighHalf
  rw [BitVec.toNat_setWidth, BitVec.toNat_append, ← Nat.shiftLeft_add_eq_or_of_lt (BitVec.isLt _)]
  simp only [BitVec.extractLsb'_toNat, Nat.shiftRight_eq_div_pow, Nat.shiftLeft_eq]
  omega

/-! ### The components of a tick -/

/-- FILTER_UPDATE answers exactly when the cursor names a slot, and then this (R101). -/
theorem filterUpdate_eq_some {cfg : Config} {x : Sample} {f g : RingFilter cfg} :
    filterUpdate cfg x f = some g ↔ ∃ h : f.cur.toNat < cfg.nSamples,
      g =
        { buf := f.buf.set f.cur.toNat x
          sum := f.sum - (f.buf[f.cur.toNat]).setWidth 16 + x.setWidth 16
          cur := BitVec.ofNat 4 ((f.cur.toNat + 1) % cfg.nSamples)
          cv := BitVec.ofNat 12
            ((f.sum - (f.buf[f.cur.toNat]).setWidth 16 + x.setWidth 16).toNat / cfg.nSamples) } := by
  unfold filterUpdate
  split
  · next h => simp [h, eq_comm]
  · next h => simp [h]

/-- FILTER_UPDATE completes on a legal cursor. -/
theorem filterUpdate_isSome (cfg : Config) (x : Sample) {f : RingFilter cfg} (h : f.cur.toNat < cfg.nSamples) :
    ∃ g, filterUpdate cfg x f = some g := ⟨_, filterUpdate_eq_some.mpr ⟨h, rfl⟩⟩

/-- The cursor after a FILTER_UPDATE (R26, R101). -/
theorem filterUpdate_cur {x : Sample} {f g : RingFilter config} (h : filterUpdate config x f = some g) :
    g.cur.toNat = (f.cur.toNat + 1) % 10 := by
  obtain ⟨hk, rfl⟩ := filterUpdate_eq_some.mp h
  simp only [BitVec.toNat_ofNat]
  omega

/-- Replacing one slot trades its value for the new one in the sum of the slots (R25). -/
theorem slotSum_of_buf_set {cfg : Config} {f g : RingFilter cfg} {k : Nat} (hk : k < cfg.nSamples) {x : Sample}
    (hg : g.buf = f.buf.set k x) : slotSum g + (f.buf[k]).toNat = slotSum f + x.toNat := by
  have sum_set : ∀ (l : List Nat) (i v : Nat) (hi : i < l.length), (l.set i v).sum + l[i] = l.sum + v := by
    intro l
    induction l with
    | nil => intro i v hi; exact absurd hi (Nat.not_lt_zero i)
    | cons a l ih =>
      intro i v hi
      cases i with
      | zero => simp only [List.set_cons_zero, List.sum_cons, List.getElem_cons_zero]; omega
      | succ i =>
        have := ih i v (Nat.lt_of_succ_lt_succ hi)
        simp only [List.set_cons_succ, List.sum_cons, List.getElem_cons_succ]
        omega
  have h := sum_set (f.buf.toList.map BitVec.toNat) k x.toNat (by simpa using hk)
  simpa [slotSum, hg, Vector.toList_set, List.map_set] using h

/-- RESCALE on this hardware (R120). -/
theorem rescale_config (cv : Sample) : rescale config cv = rawDuty cv := rfl

/-- The raw duty is at most 30 (R120). -/
theorem rawDuty_le (cv : Sample) : rawDuty cv ≤ 30 := by
  have := cv.isLt
  unfold rawDuty
  omega

/-- DUTY_MAP on this hardware, as a number (R121). -/
theorem dutyMap_toNat (cv : Sample) (held : BitVec 5) :
    (dutyMap config cv held).toNat =
      if 2 < ((rawDuty cv : Int) - (held.toNat : Int)).natAbs then rawDuty cv else held.toNat := by
  have h30 := rawDuty_le cv
  unfold dutyMap
  rw [rescale_config]
  simp only [gt_iff_lt]
  split
  · rw [BitVec.toNat_ofNat]
    omega
  · rfl

/-- ON_TIME on this hardware: 1000 ms for each duty unit (R12, R141). -/
theorem onTime_config (d : Nat) : onTime config d = 1000 * d := by
  unfold onTime
  show d * 30000 / 30 = 1000 * d
  omega

/-- INTENDED on this hardware (R142). -/
theorem intended_config (d pos : Nat) : intended config d pos = true ↔ 30 ≤ d ∨ pos < 1000 * d := by
  unfold intended
  rw [onTime_config, show config.dutyMax = 30 from rfl]
  by_cases h : 30 ≤ d <;> simp [h]

/-- SCHED_DECIDE either makes a transition, with the interval elapsed, or writes nothing (R143). -/
theorem schedDecide_cases (cfg : Config) (t pos : Time cfg) (b : Burner cfg) :
    (intended cfg b.duty.toNat pos.toNat ≠ b.relay ∧ cfg.debounceMs ≤ tdiff t b.lastT ∧
      schedDecide cfg t pos b = { b with relay := intended cfg b.duty.toNat pos.toNat, lastT := t }) ∨
    ((intended cfg b.duty.toNat pos.toNat = b.relay ∨ tdiff t b.lastT < cfg.debounceMs) ∧
      schedDecide cfg t pos b = b) := by
  unfold schedDecide
  split
  · next h => exact .inl ⟨h.1, h.2, rfl⟩
  · next h =>
    refine .inr ⟨?_, rfl⟩
    by_cases he : intended cfg b.duty.toNat pos.toNat = b.relay
    · exact .inl he
    · exact .inr (Nat.lt_of_not_ge fun hd => h ⟨he, hd⟩)

@[simp] theorem schedDecide_filter (cfg : Config) (t pos : Time cfg) (b : Burner cfg) :
    (schedDecide cfg t pos b).filter = b.filter := by
  rcases schedDecide_cases cfg t pos b with ⟨-, -, h⟩ | ⟨-, h⟩ <;> rw [h]

@[simp] theorem schedDecide_duty (cfg : Config) (t pos : Time cfg) (b : Burner cfg) :
    (schedDecide cfg t pos b).duty = b.duty := by
  rcases schedDecide_cases cfg t pos b with ⟨-, -, h⟩ | ⟨-, h⟩ <;> rw [h]

@[simp] theorem schedDecide_prevDuty (cfg : Config) (t pos : Time cfg) (b : Burner cfg) :
    (schedDecide cfg t pos b).prevDuty = b.prevDuty := by
  rcases schedDecide_cases cfg t pos b with ⟨-, -, h⟩ | ⟨-, h⟩ <;> rw [h]

/-- One burner's block of a tick, when it answers (R216). -/
theorem burnerTick_eq_some {cfg : Config} {t pos : Time cfg} {x : Sample} {b b' : Burner cfg} :
    burnerTick cfg t pos x b = some b' ↔ ∃ f, filterUpdate cfg x b.filter = some f ∧
      b' = schedDecide cfg t pos { b with filter := f, prevDuty := b.duty, duty := dutyMap cfg f.cv b.duty } := by
  unfold burnerTick
  cases filterUpdate cfg x b.filter with
  | none => simp
  | some f => simp [eq_comm]

/-- The oven's block of a tick, when it answers (R216). -/
theorem ovenTick_eq_some {cfg : Config} {t : Time cfg} {pot x : Sample} {o o' : Oven cfg} :
    ovenTick cfg t pot x o = some o' ↔ ∃ f, filterUpdate cfg x o.filter = some f ∧
      o' = ovenRelay cfg t
        { o with
          filter := f
          temp := cfg.tempConv f.cv
          sp := setpoint cfg pot
          mode := ovenMode cfg (setpoint cfg pot) } := by
  unfold ovenTick
  cases filterUpdate cfg x o.filter with
  | none => simp
  | some f => simp [eq_comm]

/-- SETPOINT on this hardware (R160). -/
theorem setpoint_toNat (pot : Sample) : (setpoint config pot).toNat = min (pot.toNat * 22 / 4095 * 25) 550 := by
  simp only [setpoint, ovenSteps_config, BitVec.toNat_ofNat]
  omega

/-- OVEN_MODE on this hardware (R161). -/
theorem ovenMode_config (sp : BitVec 10) :
    (ovenMode config sp = .off ↔ sp.toNat = 0) ∧
    (ovenMode config sp = .bake ↔ 0 < sp.toNat ∧ sp.toNat < 550) ∧
    (ovenMode config sp = .broil ↔ 550 ≤ sp.toNat) := by
  unfold ovenMode
  rw [show config.ovenMax = 550 from rfl]
  by_cases h0 : sp.toNat = 0
  · simp [h0]
  · by_cases h : sp.toNat < 550
    · simp [h0, h]
      omega
    · simp [h0, h]
      omega

@[simp] theorem ovenRelay_filter (cfg : Config) (t : Time cfg) (o : Oven cfg) : (ovenRelay cfg t o).filter = o.filter := rfl
@[simp] theorem ovenRelay_temp (cfg : Config) (t : Time cfg) (o : Oven cfg) : (ovenRelay cfg t o).temp = o.temp := rfl
@[simp] theorem ovenRelay_sp (cfg : Config) (t : Time cfg) (o : Oven cfg) : (ovenRelay cfg t o).sp = o.sp := rfl
@[simp] theorem ovenRelay_mode (cfg : Config) (t : Time cfg) (o : Oven cfg) : (ovenRelay cfg t o).mode = o.mode := rfl
@[simp] theorem ovenRelay_bake (cfg : Config) (t : Time cfg) (o : Oven cfg) :
    (ovenRelay cfg t o).bake = bakeNext cfg t o := rfl
@[simp] theorem ovenRelay_broil (cfg : Config) (t : Time cfg) (o : Oven cfg) : (ovenRelay cfg t o).broil = broilNext o := rfl
theorem ovenRelay_lastT (cfg : Config) (t : Time cfg) (o : Oven cfg) :
    (ovenRelay cfg t o).lastT = if bakeNext cfg t o ≠ o.bake then t else o.lastT := rfl

/-- What the bake relay can do in a tick (R163): forced in Off and Broil, and in Bake either a debounced change to
the intended state or nothing. -/
theorem bakeNext_cases (cfg : Config) (t : Time cfg) (o : Oven cfg) :
    (o.mode = .off ∧ bakeNext cfg t o = false) ∨ (o.mode = .broil ∧ bakeNext cfg t o = true) ∨
    (o.mode = .bake ∧ bakeIntended cfg o.temp o.sp o.bake ≠ o.bake ∧ cfg.debounceMs ≤ tdiff t o.lastT ∧
      bakeNext cfg t o = bakeIntended cfg o.temp o.sp o.bake) ∨
    (o.mode = .bake ∧ (bakeIntended cfg o.temp o.sp o.bake = o.bake ∨ tdiff t o.lastT < cfg.debounceMs) ∧
      bakeNext cfg t o = o.bake) := by
  unfold bakeNext
  cases hm : o.mode with
  | off => exact .inl ⟨rfl, rfl⟩
  | broil => exact .inr (.inl ⟨rfl, rfl⟩)
  | bake =>
    refine .inr (.inr ?_)
    by_cases h : bakeIntended cfg o.temp o.sp o.bake ≠ o.bake ∧ tdiff t o.lastT ≥ cfg.debounceMs
    · exact .inl ⟨rfl, h.1, h.2, if_pos h⟩
    · refine .inr ⟨rfl, ?_, if_neg h⟩
      by_cases he : bakeIntended cfg o.temp o.sp o.bake = o.bake
      · exact .inl he
      · exact .inr (Nat.lt_of_not_ge fun hd => h ⟨he, hd⟩)

/-- `TOT_DUTY` on this hardware's two channels (R191, R192). -/
theorem totalDuty_config (b : Chan → Burner config) (o : Oven config) :
    totalDuty config b o = ovenDuty config o + (burnerDuty (b .b0) + burnerDuty (b .b1)) := by
  simp [totalDuty]

/-- `TOT_W` on this hardware's two channels (R191, R192). -/
theorem totalWatts_config (b : Chan → Burner config) (o : Oven config) :
    totalWatts config b o = ovenWatts config o + (burnerWatts config (b .b0) + burnerWatts config (b .b1)) := by
  simp [totalWatts]

/-- The totals never exceed 100 units and 9000 W when the duties are legal (R192). -/
theorem totals_le {b : Chan → Burner config} (o : Oven config) (h : ∀ c, (b c).duty.toNat ≤ 30) :
    totalDuty config b o ≤ 100 ∧ totalWatts config b o ≤ 9000 := by
  have h0 := h .b0
  have h1 := h .b1
  rw [totalDuty_config, totalWatts_config]
  unfold ovenDuty ovenWatts burnerDuty burnerWatts
  cases o.mode <;> simp only <;> split_ifs <;> omega

/-- The one gate mode is FAITHFUL, so a tick is TICK_BODY as R216 writes it (R198). -/
theorem tickBody_eq_faithfulTick (s : State) : tickBody s = faithfulTick s := rfl

/-- Every block of a tick has answered: the tick's state (R216). -/
theorem tickBody_eq_some {s u : State} :
    tickBody s = some u ↔ ∃ b0 b1 o,
      burnerTick config s.now (cyclePosition config s.now s.cycStart) s.in0 s.burner0 = some b0 ∧
      burnerTick config s.now (cyclePosition config s.now s.cycStart) s.in1 s.burner1 = some b1 ∧
      ovenTick config s.now s.in2 s.in3 s.oven = some o ∧
      u = arbitrate
        { s with
          cycStart := cycleAdvance config s.now s.cycStart
          cycPos := cyclePosition config s.now s.cycStart
          burner0 := b0, burner1 := b1, oven := o } := by
  rw [tickBody_eq_faithfulTick]
  unfold faithfulTick
  simp only [channels_config, List.foldlM_cons, List.foldlM_nil]
  unfold tickChannel tickOven
  dsimp only [burnerInput, burnerOf, setBurner]
  cases burnerTick config s.now (cyclePosition config s.now s.cycStart) s.in0 s.burner0 with
  | none => simp
  | some b0 =>
    simp only [Option.map_some, Option.bind_eq_bind, Option.bind_some]
    cases burnerTick config s.now (cyclePosition config s.now s.cycStart) s.in1 s.burner1 with
    | none => simp
    | some b1 =>
      simp only [Option.map_some, Option.bind_some, Option.pure_def]
      cases ovenTick config s.now s.in2 s.in3 s.oven <;> simp [eq_comm]

/-- A tick completes when the three cursors name slots. -/
theorem tickBody_isSome {s : State} (h : CursorsLegal s) : ∃ u, tickBody s = some u := by
  obtain ⟨h0, h1, h2⟩ := h
  obtain ⟨f0, e0⟩ := filterUpdate_isSome config s.in0 h0
  obtain ⟨f1, e1⟩ := filterUpdate_isSome config s.in1 h1
  obtain ⟨f2, e2⟩ := filterUpdate_isSome config s.in3 h2
  exact ⟨_, tickBody_eq_some.mpr ⟨_, _, _, burnerTick_eq_some.mpr ⟨f0, e0, rfl⟩,
    burnerTick_eq_some.mpr ⟨f1, e1, rfl⟩, ovenTick_eq_some.mpr ⟨f2, e2, rfl⟩, rfl⟩⟩

/-- TICK in RUNNING is its body (R215). -/
theorem execTick_of_running {s : State} (h : Running s) :
    exec .tick s = match tickBody s with | some u => .next u | none => .fault .cursorOutOfRange := by
  show execTick s = _
  unfold execTick
  rw [unlessHalted_of_not_halted h.2]
  exact if_pos h.1

/-- What TICK can answer when it answers a next state (R215). -/
theorem execTick_cases {s t : State} (h : exec .tick s = .next t) :
    (s.halt = true ∧ t = s) ∨ (s.halt = false ∧ s.run = false ∧ t = recorded 3#3 s) ∨
      (s.halt = false ∧ s.run = true ∧ tickBody s = some t) := by
  rcases unlessHalted_cases (show unlessHalted s _ = .next t from h) with h | ⟨hh, h⟩
  · exact .inl h
  · refine .inr ?_
    cases hr : s.run with
    | false =>
      refine .inl ⟨hh, rfl, ?_⟩
      simp only [runTick, hr] at h
      rw [raiseError_eq_recorded] at h
      exact (Host.Outcome.next.inj h).symm
    | true =>
      refine .inr ⟨hh, rfl, ?_⟩
      simp only [runTick, hr, if_true] at h
      split at h
      · next u hu => rw [hu, Host.Outcome.next.inj h]
      · cases h

/-! ### The commands, in one equation each -/

/-- What SETIN answers (R212). -/
theorem exec_setin_eq (sel : InputSel) (val : BitVec 16) (s : State) :
    exec (.setin sel val) s =
      if s.halt = true then .next s else .next (writeInput sel (clampSample config val) s) := rfl

/-- What SETTL answers (R213). -/
theorem exec_settl_eq (val : BitVec 16) (s : State) :
    exec (.settl val) s = if s.halt = true then .next s else .next { s with now := withLowHalf s.now val } := rfl

/-- What SETTH answers (R214). -/
theorem exec_setth_eq (val : BitVec 16) (s : State) :
    exec (.setth val) s = if s.halt = true then .next s else .next { s with now := withHighHalf s.now val } := rfl

/-- What START answers (R220). -/
theorem exec_start_eq (sinkOk : Bool) (s : State) :
    exec (.start sinkOk) s =
      if s.halt = true then .next s
      else if s.run = true then .next (recorded 3#3 s)
      else if sinkOk = true then .next { s with run := true }
      else .next { s with halt := true } := by
  rw [← show raiseError .badState s = recorded 3#3 s from raiseError_eq_recorded _ _]
  rfl

/-- What CLRERR answers (R221). -/
theorem exec_clrerr_eq (s : State) :
    exec .clrerr s = if s.halt = true then .next s else .next (clearError s) := rfl

/-! ### RDREG, and one step -/

/-- What RDREG answers (R218, R219). -/
theorem execRdreg_eq (idx : BitVec 8) (s : State) :
    exec (.rdreg idx) s =
      match readIndex idx s with
      | some v => .next { s with rdata := v }
      | none => .next (recorded 4#3 { s with rdata := 0#32 }) := by
  show execRdreg idx s = _
  unfold execRdreg
  cases readIndex idx s with
  | none => exact congrArg Host.Outcome.next (raiseError_eq_recorded _ _)
  | some v => rfl

/-- What a step can do when it answers a next state: it holds (R266), resets (R280), runs the decoded command, or
rejects the word (R210). -/
theorem step_cases {s t : State} (h : step s = .next t) :
    (s.pending = [] ∧ t = s) ∨
    (∃ rest, s.pending = .resetN :: rest ∧ t = { State.reset with pending := rest }) ∨
    (∃ w rest i, s.pending = .command w :: rest ∧ decode w = .cmd i ∧
      exec i { s with pending := rest } = .next t) ∨
    (∃ w rest, s.pending = .command w :: rest ∧
      (t = { s with pending := rest } ∨
        ∃ code, code ∈ [1#3, 2#3] ∧ t = recorded code { s with pending := rest }) ∧ ∀ i, decode w ≠ .cmd i) := by
  unfold step acceptEvent at h
  cases hp : s.pending with
  | nil =>
    simp only [hp] at h
    exact .inl ⟨rfl, (Host.Outcome.next.inj h).symm⟩
  | cons e rest =>
    cases e with
    | resetN =>
      simp only [hp, hardwareReset_eq] at h
      exact .inr (.inl ⟨rest, rfl, (Host.Outcome.next.inj h).symm⟩)
    | command w =>
      simp only [hp] at h
      cases hd : decode w with
      | cmd i =>
        simp only [hd] at h
        exact .inr (.inr (.inl ⟨w, rest, i, rfl, hd, h⟩))
      | illegal =>
        simp only [hd, rejectIllegal] at h
        refine .inr (.inr (.inr ⟨w, rest, rfl, ?_, fun i hi => by rw [hd] at hi; cases hi⟩))
        rcases unlessHalted_cases h with ⟨-, h⟩ | ⟨-, h⟩
        · exact .inl h
        · rw [raiseError_eq_recorded] at h
          exact .inr ⟨1#3, by simp, (Host.Outcome.next.inj h).symm⟩
      | reserved op =>
        simp only [hd, rejectReserved] at h
        refine .inr (.inr (.inr ⟨w, rest, rfl, ?_, fun i hi => by rw [hd] at hi; cases hi⟩))
        split at h
        · rw [raiseError_eq_recorded] at h
          exact .inr ⟨2#3, by simp, (Host.Outcome.next.inj h).symm⟩
        · rcases unlessHalted_cases h with ⟨-, h⟩ | ⟨-, h⟩
          · exact .inl h
          · rw [raiseError_eq_recorded] at h
            exact .inr ⟨2#3, by simp, (Host.Outcome.next.inj h).symm⟩

end Sys2Proof.Machine
end

