-- ==== Sys2Proof/Laws/PerInstr.lean ====
section
/-! SUPPORT. A statement about the form of every command, one lemma for each constructor. -/

namespace Sys2Proof.Laws.RowOfWord

/-- The word of a command carries its opcode's byte and matches its row of the opcode map (R82). -/
def Statement (i : Instr) : Prop :=
  opcByte (encode i) = i.opcode.byte ∧ encode i &&& i.opcode.mask = i.opcode.pattern

/-- Operand bits below bit `n` leave the opcode byte alone, and a mask that does not cover them does not see them. -/
theorem lowBits {n : Nat} (hn : n ≤ 24) (p m : Word) (v : BitVec n) (hm : ∀ i < n, m.getLsbD i = false) :
    opcByte (p ||| v.setWidth 32) = opcByte p ∧ (p ||| v.setWidth 32) &&& m = p &&& m := by
  constructor
  · apply BitVec.eq_of_getLsbD_eq
    intro i hi
    have hv : v.getLsbD (24 + i) = false := BitVec.getLsbD_of_ge v _ (by omega)
    simp [opcByte, hv]
  · apply BitVec.eq_of_getLsbD_eq
    intro i hi
    by_cases h : i < n
    · simp [hm i h]
    · have hv : v.getLsbD i = false := BitVec.getLsbD_of_ge v _ (by omega)
      simp [hv]

theorem ofNat_toNat32 {n : Nat} (v : BitVec n) : BitVec.ofNat 32 v.toNat = v.setWidth 32 := by
  apply BitVec.eq_of_toNat_eq
  simp

/-- The operand bits of a SETIN are those of its latch number above those of its sample. -/
theorem setin_bits (sel : InputSel) (val : BitVec 16) :
    encode (.setin sel val) = (0x01000000#32 + BitVec.ofNat 32 (sel.number * 65536)) ||| val.setWidth 32 := by
  have hv := val.isLt
  have e : BitVec.ofNat 32 (sel.number * 65536 + val.toNat) =
      BitVec.ofNat 32 (sel.number * 65536) ||| val.setWidth 32 := by
    rw [← BitVec.add_eq_or_of_and_eq_zero]
    · rw [← ofNat_toNat32, BitVec.ofNat_add]
    · apply BitVec.eq_of_getLsbD_eq
      intro i hi
      by_cases h : i < 16
      · have : (BitVec.ofNat 32 (sel.number * 65536)).getLsbD i = false := by
          cases sel <;> interval_cases i <;> rfl
        simp [this]
      · have : val.getLsbD i = false := BitVec.getLsbD_of_ge val _ (by omega)
        simp [this]
  show 0x01000000#32 ||| BitVec.ofNat 32 (sel.number * 65536 + val.toNat) = _
  rw [e, ← BitVec.or_assoc]
  congr 1
  cases sel <;> rfl

theorem nop : Statement .nop := by constructor <;> rfl

theorem setin (sel : InputSel) (val : BitVec 16) : Statement (.setin sel val) := by
  unfold Statement
  rw [setin_bits]
  obtain ⟨h1, h2⟩ := lowBits (by omega) (0x01000000#32 + BitVec.ofNat 32 (sel.number * 65536)) 0xFFFC0000#32 val
    (by decide)
  refine ⟨h1.trans ?_, h2.trans ?_⟩ <;> cases sel <;> rfl

theorem settl (val : BitVec 16) : Statement (.settl val) := by
  obtain ⟨h1, h2⟩ := lowBits (by omega) 0x02000000#32 0xFFFF0000#32 val (by decide)
  have e : encode (.settl val) = 0x02000000#32 ||| val.setWidth 32 := congrArg (fun z => 0x02000000#32 ||| z) (ofNat_toNat32 val)
  unfold Statement
  rw [e]
  exact ⟨h1, h2⟩

theorem setth (val : BitVec 16) : Statement (.setth val) := by
  obtain ⟨h1, h2⟩ := lowBits (by omega) 0x03000000#32 0xFFFF0000#32 val (by decide)
  have e : encode (.setth val) = 0x03000000#32 ||| val.setWidth 32 := congrArg (fun z => 0x03000000#32 ||| z) (ofNat_toNat32 val)
  unfold Statement
  rw [e]
  exact ⟨h1, h2⟩

theorem tick : Statement .tick := by constructor <;> rfl

theorem rdreg (idx : BitVec 8) : Statement (.rdreg idx) := by
  obtain ⟨h1, h2⟩ := lowBits (by omega) 0x20000000#32 0xFFFFFF00#32 idx (by decide)
  have e : encode (.rdreg idx) = 0x20000000#32 ||| idx.setWidth 32 := congrArg (fun z => 0x20000000#32 ||| z) (ofNat_toNat32 idx)
  unfold Statement
  rw [e]
  exact ⟨h1, h2⟩

theorem start (sinkOk : Bool) : Statement (.start sinkOk) := by cases sinkOk <;> constructor <;> rfl

theorem clrerr : Statement .clrerr := by constructor <;> rfl

theorem rst : Statement .rst := by constructor <;> rfl

end Sys2Proof.Laws.RowOfWord
end

