-- ==== Sys2Proof/Tests/Slice0.lean ====
section
/-! SUPPORT. The model's own tests. Expected values come from the spec: the encoding tables (30_encoding.md R82, R83,
R90) and the vectors V1 to V10 of 95_test_vectors.md. The theorems named `witness_…` show, for each obligation with
hypotheses, a concrete state and operands that meet them. -/

namespace Sys2Proof.Tests

open Sys2Proof.Machine

/-! ### Helpers -/

/-- The state a command leaves, or the state it started from when it stops. -/
def afterExec (i : Instr) (s : State) : State :=
  match exec i s with
  | .next t => t
  | .fault _ => s
  | .refused _ => s

/-- The state a step leaves, or the state it started from when it stops. -/
def afterStep (s : State) : State :=
  match step s with
  | .next t => t
  | .fault _ => s
  | .refused _ => s

/-- Whether a step answers a next state. -/
def stepsOn (s : State) : Bool :=
  match step s with
  | .next _ => true
  | .fault _ => false
  | .refused _ => false

theorem step_afterStep {s : State} (h : stepsOn s = true) : step s = .next (afterStep s) := by
  unfold stepsOn at h
  unfold afterStep
  split at h <;> simp_all

/-- IDLE, with one command word on the port. -/
def idleWith (w : Word) : State := { State.reset with pending := [.command w] }

/-- RUNNING at time `now`, nothing else moved since reset. -/
def runningAt (now : Time config) : State := { State.reset with run := true, now := now }

/-- HALTED, with an error recorded and one command word on the port. -/
def haltedWith (w : Word) : State :=
  { State.reset with halt := true, err := true, errCode := 3#3, pending := [.command w] }

/-! ### Decoding: one word of each row, written out from R82 and R83 -/

theorem test_decode_nop : decode 0x00000000#32 = .cmd .nop := by decide
theorem test_decode_setin : decode 0x01031388#32 = .cmd (.setin .ovenTemp 0x1388#16) := by decide
theorem test_decode_setin_burner1 : decode 0x01010FFF#32 = .cmd (.setin .burner1 0x0FFF#16) := by decide
theorem test_decode_settl : decode 0x020003E8#32 = .cmd (.settl 0x03E8#16) := by decide
theorem test_decode_setth : decode 0x0300ABCD#32 = .cmd (.setth 0xABCD#16) := by decide
theorem test_decode_tick : decode 0x10000000#32 = .cmd .tick := by decide
theorem test_decode_rdreg : decode 0x20000031#32 = .cmd (.rdreg 0x31#8) := by decide
theorem test_decode_start : decode 0x30000001#32 = .cmd (.start true) := by decide
theorem test_decode_start_failed : decode 0x30000000#32 = .cmd (.start false) := by decide
theorem test_decode_clrerr : decode 0x31000000#32 = .cmd .clrerr := by decide
theorem test_decode_rst : decode 0xFF000000#32 = .cmd .rst := by decide
theorem test_decode_reserved : decode 0x01040000#32 = .reserved .setin ∧ decode 0x20000100#32 = .reserved .rdreg := by
  decide
theorem test_decode_illegal : decode 0x04000000#32 = .illegal ∧ decode 0x11000000#32 = .illegal := by decide
theorem test_table_row : decodeTableWord 32 0x3000000000 = some .nop ∧ decodeTableWord 32 0x30000001 = some (.start true) ∧
    decodeTableWord 32 0x30000002 = none := by decide
theorem test_link_order : linkBytes 0x20000031#32 = [0x31#8, 0x00#8, 0x00#8, 0x20#8] ∧ wordOfLink [0x31#8] = none := by
  decide
theorem test_fetch_word : step (State.reset.withFetchWord 32 0x0200A5A5) = exec (.settl 0xA5A5#16) State.reset := rfl

/-! ### Well-formedness: an operand at its bound, and one the assembler refuses for each check (R88) -/

theorem test_wf_setin : (AsmStmt.setin 3 65535).wellFormed = true ∧ (AsmStmt.setin 4 0).wellFormed = false ∧
    (AsmStmt.setin 0 65536).wellFormed = false := by decide
theorem test_wf_settl : (AsmStmt.settl 65535).wellFormed = true ∧ (AsmStmt.settl 65536).wellFormed = false := by decide
theorem test_wf_setth : (AsmStmt.setth 65535).wellFormed = true ∧ (AsmStmt.setth 65536).wellFormed = false := by decide
theorem test_wf_rdreg : (AsmStmt.rdreg 255).wellFormed = true ∧ (AsmStmt.rdreg 256).wellFormed = false := by decide
theorem test_wf_start : (AsmStmt.start 1).wellFormed = true ∧ (AsmStmt.start 2).wellFormed = false := by decide
theorem test_wf_settime : (AsmStmt.settime 4294967295).wellFormed = true ∧
    (AsmStmt.settime 4294967296).wellFormed = false := by decide
theorem test_wf_tickat : (AsmStmt.tickat 4294967295).wellFormed = true ∧
    (AsmStmt.tickat 4294967296).wellFormed = false := by decide
theorem test_wf_sample : (AsmStmt.sample 65535 65535 65535 65535).wellFormed = true ∧
    (AsmStmt.sample 65536 0 0 0).wellFormed = false ∧ (AsmStmt.sample 0 65536 0 0).wellFormed = false ∧
    (AsmStmt.sample 0 0 65536 0).wellFormed = false ∧ (AsmStmt.sample 0 0 0 65536).wellFormed = false := by decide
theorem test_wf_word : (AsmStmt.word 4294967295).wellFormed = true ∧ (AsmStmt.word 4294967296).wellFormed = false := by
  decide
theorem test_refused_statement : assemble (.setin 4 0) = none := by decide
theorem test_assemble_line : assembleLine "  SetIn opot, 2300 ; oven".toList = some [0x010208FC#32] ∧
    assembleLine "setin b7, 1".toList = none := by decide
theorem test_wf_command (i : Instr) : i.wellFormed = true := by
  cases i <;> simp only [Instr.wellFormed, decide_eq_true_eq] <;> exact BitVec.isLt _

/-! ### One step of each command (V10 unless another vector is named) -/

theorem test_nop : exec .nop State.reset = .next State.reset := rfl
theorem test_setin_clamps : (afterExec (.setin .ovenTemp 5000#16) State.reset).in3 = 4095#12 := by decide
theorem test_setin_selects : (afterExec (.setin .burner1 4094#16) State.reset).in1 = 4094#12 ∧
    (afterExec (.setin .burner1 4094#16) State.reset).in0 = 0#12 := by decide
theorem test_settl : (afterExec (.settl 0x0010#16) (runningAt 0x00012345#32)).now = 0x00010010#_ := by decide
theorem test_setth : (afterExec (.setth 0xFFFF#16) (runningAt 0x00012345#32)).now = 0xFFFF2345#_ := by decide
theorem test_rdreg_unmapped : (afterExec (.rdreg 0x08#8) { State.reset with rdata := 7#32 }).rdata = 0#32 ∧
    (afterExec (.rdreg 0x08#8) State.reset).errCode = 4#3 := by decide
theorem test_rdreg_mapped : (afterExec (.rdreg 0x01#8) (runningAt 0xFFFFFFFE#32)).rdata = 0xFFFFFFFE#32 := by decide
theorem test_start : (afterExec (.start true) State.reset).run = true ∧
    (afterExec (.start false) State.reset).halt = true := by decide
theorem test_clrerr : (afterExec .clrerr { State.reset with err := true, errCode := 2#3 }).errCode = 0#3 := by decide
theorem test_rst : afterExec .rst (runningAt 7#32) = State.reset := rfl
/-- V1 step 1: the first FILTER_UPDATE after reset. -/
theorem test_tick_filter :
    (afterExec .tick { runningAt 0#32 with in0 := 4095#12 }).burner0.filter.sum = 4095#16 ∧
    (afterExec .tick { runningAt 0#32 with in0 := 4095#12 }).burner0.filter.cur = 1#4 ∧
    (afterExec .tick { runningAt 0#32 with in0 := 4095#12 }).burner0.filter.cv = 409#12 := by decide
theorem test_tick_idle : (afterExec .tick State.reset).errCode = 3#3 := by decide
/-- R254 and V10: `0x10000001` in IDLE is RESERVED_NONZERO, not BAD_STATE. -/
theorem test_reserved_before_state : (afterStep (idleWith 0x10000001#32)).errCode = 2#3 := by decide
theorem test_illegal_word : (afterStep (idleWith 0x04000000#32)).errCode = 1#3 := by decide

/-! ### Witnesses: encoding -/

theorem witness_EncodeOfDecodeIsTheWord : decode 0x30000001#32 = .cmd (.start true) := by decide
theorem witness_DecoderFollowsOpcodeMap :
    0x0103FFFF#32 &&& 0xFFFC0000#32 = 0x01000000#32 ∧ 0x0200FFFF#32 &&& 0xFFFF0000#32 = 0x02000000#32 ∧
    0x0300FFFF#32 &&& 0xFFFF0000#32 = 0x03000000#32 ∧ 0x200000FF#32 &&& 0xFFFFFF00#32 = 0x20000000#32 ∧
    0x30000000#32 &&& 0xFFFFFFFE#32 = 0x30000000#32 ∧ 0x10000000#32 &&& 0xFFFFFFFF#32 = 0x10000000#32 ∧
    (∃ i, decode 0x00000000#32 = .cmd i) := ⟨by decide, by decide, by decide, by decide, by decide, by decide, .nop, by decide⟩
theorem witness_AssembledWordsAreCommands :
    ∃ ws, (∀ u, AsmStmt.tickat 1000 ≠ .word u) ∧ assemble (.tickat 1000) = some ws ∧ 0x10000000#32 ∈ ws :=
  ⟨[0x03000000#32, 0x020003E8#32, 0x10000000#32], by simp, by decide, by decide⟩
/-- Operands at the ends of their ranges, and one past them (R83, R88). -/
theorem witness_AssembledWordsAreCommands_bounds :
    assemble (.setin 3 65535) = some [0x0103FFFF#32] ∧ assemble (.setin 4 0) = none ∧
    assemble (.setin 0 65536) = none ∧ assemble (.start 2) = none ∧ assemble (.rdreg 256) = none := by decide
theorem witness_SettimeWritesWholeClock :
    4294967295 < 4294967296 ∧ (runningAt 7#32).halt = false ∧ (runningAt 7#32).pending = [] := by decide

/-! ### Witnesses: one step -/

theorem witness_StepRunsDecodedCommand :
    (idleWith 0x30000001#32).pending = .command 0x30000001#32 :: [] ∧ decode 0x30000001#32 = .cmd (.start true) := by
  decide
theorem witness_StepHoldsBetweenCommands : (runningAt 7#32).pending = [] := rfl
theorem witness_EveryWordHasAnOutcome :
    (idleWith 0x12345678#32).pending = .command 0x12345678#32 :: [] ∧ CursorsLegal (idleWith 0x12345678#32) := by decide
theorem witness_IllegalWordRecordsCodeOne :
    (idleWith 0x04000000#32).pending = .command 0x04000000#32 :: [] ∧ (idleWith 0x04000000#32).halt = false ∧
    decode 0x04000000#32 = .illegal := by decide
theorem witness_ReservedWordRecordsCodeTwo :
    (idleWith 0x10000001#32).pending = .command 0x10000001#32 :: [] ∧ (idleWith 0x10000001#32).halt = false ∧
    decode 0x10000001#32 = .reserved .tick := by decide
/-- The two opcodes of the second alternative, in HALTED. -/
theorem witness_ReservedWordRecordsCodeTwo_halted :
    (haltedWith 0x20000100#32).pending = .command 0x20000100#32 :: [] ∧ (haltedWith 0x20000100#32).halt = true ∧
    opcByte 0x20000100#32 = 0x20#8 ∧ decode 0x20000100#32 = .reserved .rdreg ∧ opcByte 0xFF000001#32 = 0xFF#8 ∧
    decode 0xFF000001#32 = .reserved .rst := by decide
theorem witness_HaltedIgnoresOtherWords :
    (haltedWith 0x04000000#32).pending = .command 0x04000000#32 :: [] ∧ (haltedWith 0x04000000#32).halt = true ∧
    opcByte 0x04000000#32 ≠ 0x20#8 ∧ opcByte 0x04000000#32 ≠ 0xFF#8 := by decide

/-! ### Witnesses: the register index space, and the commands but TICK -/

/-- The indices at the edges of the mapped ranges, and the unmapped ones beside them. -/
theorem witness_UnmappedIndexIsBadReg :
    MappedIndex 0x07#8 ∧ ¬ MappedIndex 0x08#8 ∧ ¬ MappedIndex 0x17#8 ∧ MappedIndex 0x18#8 ∧ ¬ MappedIndex 0x29#8 ∧
    MappedIndex 0x34#8 ∧ ¬ MappedIndex 0x35#8 ∧ MappedIndex 0x49#8 ∧ ¬ MappedIndex 0x4A#8 ∧ MappedIndex 0x50#8 ∧
    MappedIndex 0x69#8 ∧ ¬ MappedIndex 0x6A#8 ∧ ¬ MappedIndex 0xFF#8 := by
  refine ⟨?_, ?_, ?_, ?_, ?_, ?_, ?_, ?_, ?_, ?_, ?_, ?_, ?_⟩ <;> decide
theorem witness_NoHiddenState : ∃ s t : State, s.rdata = t.rdata ∧ s.err = true ∧ s.pending = t.pending ∧
    (∀ idx, readIndex idx s = readIndex idx t) ∧ s.run = t.run ∧ s.halt = t.halt ∧ s.err = t.err ∧
    s.errCode = t.errCode :=
  ⟨haltedWith 7#32, haltedWith 7#32, rfl, rfl, rfl, fun _ => rfl, rfl, rfl, rfl, rfl⟩
theorem witness_RdregReadsMappedIndex : readIndex 0x69#8 State.reset = some 0#32 := by decide
theorem witness_ReadsHaveNoSideEffects :
    (readIndex 0x00#8 State.reset).isSome = true ∧
    exec (.setin .ovenPot 5000#16) State.reset = .next { State.reset with in2 := 4095#12 } ∧
    exec (.settl 7#16) State.reset = .next { State.reset with now := 7#32 } ∧
    exec (.setth 7#16) State.reset = .next { State.reset with now := 0x70000#32 } := ⟨by decide, rfl, rfl, rfl⟩
theorem witness_SetinLoadsOneClampedLatch : State.reset.halt = false ∧ InputSel.burner1 ≠ .burner0 := by decide
theorem witness_ClockHalvesAreLoadedApart : (runningAt 0xFFFFFFFF#32).halt = false := rfl
theorem witness_StartLeavesIdle : State.reset.run = false ∧ State.reset.halt = false := by decide
theorem witness_WrongRunStateRecordsCodeThree :
    State.reset.halt = false ∧ State.reset.run = false ∧ (runningAt 7#32).halt = false ∧
    (runningAt 7#32).run = true := by decide
theorem witness_ClrerrClearsTheRecord : ({ State.reset with err := true, errCode := 4#3 } : State).halt = false := rfl
theorem witness_OnlyTickAndResetChangeControlState : Instr.clrerr ≠ .tick ∧ Instr.clrerr ≠ .rst := by decide
/-- A held record, a CLRERR and a reset: the three cases of the conclusion. -/
theorem witness_ErrorRecordIsSticky :
    step (haltedWith 0x31000000#32) = .next { haltedWith 0 with pending := [] } ∧
    (haltedWith 0x31000000#32).err = true ∧
    stepsOn { haltedWith 0x31000000#32 with halt := false } = true ∧ stepsOn (haltedWith 0xFF000000#32) = true ∧
    ResetsNext (haltedWith 0xFF000000#32) := ⟨rfl, rfl, by decide, by decide, by decide⟩

/-! ### Witnesses: TICK -/

/-- A state in RUNNING whose conditioned burner value is on the edge the duty mapper tests. -/
def steadyAt (now : Time config) (x : Sample) (held : BitVec 5) : State :=
  { runningAt now with
    in0 := x
    burner0 :=
      { Burner.zero with
        filter := { buf := Vector.replicate 10 x, sum := BitVec.ofNat 16 (10 * x.toNat), cur := 9#4, cv := x }
        duty := held } }

/-- Every statement about TICK with these two hypotheses alone, on a filter that is not zero. -/
theorem witness_running : Running (steadyAt 50#32 4095#12 30#5) ∧ CursorsLegal (steadyAt 50#32 4095#12 30#5) := by
  decide
/-- The same two hypotheses at every time and every oven potentiometer value, for the boundary states below. -/
theorem witness_runningAt (now : Time config) (pot : Sample) :
    Running { runningAt now with in2 := pot } ∧ CursorsLegal { runningAt now with in2 := pot } :=
  ⟨⟨rfl, rfl⟩, (by decide : CursorsLegal State.reset)⟩
theorem witness_TickAdvancesTheCycle :
    30000 < ((runningAt 30001#32).now - (runningAt 30001#32).cycStart).toNat ∧
    ((runningAt 30000#32).now - (runningAt 30000#32).cycStart).toNat ≤ 30000 := by decide
theorem witness_TickUpdatesTheFilters :
    Running (steadyAt 50#32 4095#12 30#5) ∧ FilterLegal (steadyAt 50#32 4095#12 30#5).burner0.filter ∧
    FilterLegal (steadyAt 50#32 4095#12 30#5).burner1.filter ∧
    FilterLegal (steadyAt 50#32 4095#12 30#5).oven.filter := by decide
/-- V3: raw 2 and raw 3 against a held duty of 0. -/
theorem witness_TickMapsTheDuty :
    (afterExec .tick (steadyAt 0#32 409#12 0#5)).burner0.filter.cv = 409#12 ∧
    ((rawDuty 409#12 : Int) - ((0#5).toNat : Int)).natAbs ≤ 2 ∧
    (afterExec .tick (steadyAt 0#32 410#12 0#5)).burner0.filter.cv = 410#12 ∧
    2 < ((rawDuty 410#12 : Int) - ((0#5).toNat : Int)).natAbs := by decide
/-- At 50 ms and duty 3 the transition is taken; at 49 ms it is blocked (V7). -/
theorem witness_TickDecidesTheRelay :
    (afterExec .tick (steadyAt 50#32 410#12 0#5)).burner0.duty = 3#5 ∧
    (true ≠ (steadyAt 50#32 410#12 0#5).burner0.relay ∧
      50 ≤ ((steadyAt 50#32 410#12 0#5).now - (steadyAt 50#32 410#12 0#5).burner0.lastT).toNat) ∧
    ((steadyAt 49#32 410#12 0#5).now - (steadyAt 49#32 410#12 0#5).burner0.lastT).toNat < 50 := by decide
/-- V4's edges of the three modes. -/
theorem witness_ModeForcesOvenRelays :
    (afterExec .tick { runningAt 0#32 with in2 := 186#12 }).oven.mode = .off ∧
    (afterExec .tick { runningAt 0#32 with in2 := 187#12 }).oven.mode = .bake ∧
    (afterExec .tick { runningAt 0#32 with in2 := 4094#12 }).oven.mode = .bake ∧
    (afterExec .tick { runningAt 0#32 with in2 := 4095#12 }).oven.mode = .broil := by decide
theorem witness_OvenTimestampFollowsBakeRelay :
    (afterExec .tick { runningAt 9#32 with in2 := 4095#12 }).oven.bake ≠ (runningAt 9#32).oven.bake ∧
    (afterExec .tick (runningAt 9#32)).oven.bake = (runningAt 9#32).oven.bake := by decide
theorem witness_BakeIntentUnderBothOffRules :
    (22#16).toInt < ((25#10).toNat : Int) - config.hystTemp ∧
    ((25#10).toNat : Int) - config.hystTemp ≤ (23#16).toInt ∧
    (27#16).toInt ≤ ((25#10).toNat : Int) + config.hystTemp ∧
    ((25#10).toNat : Int) + config.hystTemp < (28#16).toInt ∧ config.ovenOffRule = .band ∧
    ({ config with ovenOffRule := .threshold } : Config).ovenOffRule = .threshold := by
  refine ⟨by decide, by decide, by decide, by decide, rfl, rfl⟩
/-- Also the hypotheses of TickSplitsPowerAndSetsOverload, at the largest legal duty. -/
theorem witness_TickBillsWhatIsOn :
    Running (steadyAt 50#32 4095#12 30#5) ∧ CursorsLegal (steadyAt 50#32 4095#12 30#5) ∧
    (steadyAt 50#32 4095#12 30#5).burner0.duty.toNat ≤ 30 ∧
    (steadyAt 50#32 4095#12 30#5).burner1.duty.toNat ≤ 30 := by decide
theorem witness_SourceOverloadExample : ∃ s : State, s.burner0.duty = 30#5 ∧ s.burner0.relay = true ∧
    s.burner1.duty = 30#5 ∧ s.burner1.relay = true ∧ s.oven.mode = .bake ∧ s.oven.bake = true :=
  ⟨{ State.reset with
      burner0 := { Burner.zero with duty := 30#5, relay := true }
      burner1 := { Burner.zero with duty := 30#5, relay := true }
      oven := { Oven.zero with mode := .bake, bake := true } }, rfl, rfl, rfl, rfl, rfl, rfl⟩
/-- The smallest and the largest step back of the rule. -/
theorem witness_BackwardClockRestartsCycle :
    ∃ s t : State, (Running s ∧ CursorsLegal s ∧ s.now = s.cycStart - BitVec.ofNat _ 1) ∧
      Running t ∧ CursorsLegal t ∧ 0 < 4294937295 ∧ 4294937295 < 4294967296 - 30000 ∧
      t.now = t.cycStart - BitVec.ofNat _ 4294937295 :=
  ⟨{ runningAt 7#32 with cycStart := 8#32 }, runningAt 30001#32, ⟨by decide, by decide, by decide⟩, by decide,
    by decide, by decide, by decide, by decide⟩
theorem witness_RepeatedTimeBlocksTransitions :
    (burnerOf .b0 (afterExec .tick (steadyAt 50#32 4095#12 30#5))).relay ≠
      (burnerOf .b0 (steadyAt 50#32 4095#12 30#5)).relay ∧
    (afterExec .tick { steadyAt 50#32 4095#12 30#5 with in2 := 4095#12 }).oven.bake ≠
      (steadyAt 50#32 4095#12 30#5).oven.bake := by decide

/-! ### Witnesses: sequences, invariants and whole-machine rules -/

theorem witness_MovingAverageOfLastTenSamples :
    FilterLegal (steadyAt 0#32 7#12 0#5).burner0.filter ∧ 10 ≤ (List.replicate 10 (4095#12 : Sample)).length := by decide
theorem witness_WarmUpCountsZeroSlots : (List.replicate 9 (4095#12 : Sample)).length < 10 := by decide
theorem witness_HysteresisStability :
    (∀ cv ∈ [(136#12 : Sample), 409#12], ((rawDuty cv : Int) - ((0#5).toNat : Int)).natAbs ≤ 2) ∧
    2 < ((rawDuty 410#12 : Int) - ((0#5).toNat : Int)).natAbs := by decide
theorem witness_EveryStepKeepsLegality :
    Legal { idleWith 0x30000001#32 with in0 := 7#12 } ∧ stepsOn { idleWith 0x30000001#32 with in0 := 7#12 } = true := by
  decide
theorem witness_LegalRunsNeverStop : Legal { runningAt 7#32 with pending := [.command 0x10000000#32] } := by decide
theorem witness_RelaysStayOffUnlessRunning :
    RelaysOffUnlessRunning (idleWith 0x30000001#32) ∧ stepsOn (idleWith 0x30000001#32) = true := by decide
theorem witness_OnlyResetLeavesHalted :
    step (haltedWith 0xFF000000#32) = .next State.reset ∧ (haltedWith 0xFF000000#32).halt = true ∧
    State.reset.halt = false ∧ stepsOn (idleWith 0x30000000#32) = true ∧
    (afterStep (idleWith 0x30000000#32)).halt = true := ⟨rfl, rfl, rfl, by decide, by decide⟩

/-- Burner 0 held at duty 1, at 950 ms, with a second TICK pending at 1000 ms: ON, then OFF 50 ms later. -/
def twoTicks : State :=
  { runningAt 950#32 with
    burner0 := { Burner.zero with duty := 1#5 }
    pending := [.command 0x10000000#32, .command 0x020003E8#32, .command 0x10000000#32] }

theorem witness_DebounceBetweenTransitions :
    ∃ s0 s1 s2 s3 : State, step s0 = .next s1 ∧ ¬ ResetsNext s0 ∧ (burnerOf .b0 s1).relay ≠ (burnerOf .b0 s0).relay ∧
      QuietBurner .b0 s1 s2 ∧ step s2 = .next s3 ∧ ¬ ResetsNext s2 ∧
      (burnerOf .b0 s3).relay ≠ (burnerOf .b0 s2).relay := by
  refine ⟨twoTicks, afterStep twoTicks, afterStep (afterStep twoTicks), afterStep (afterStep (afterStep twoTicks)),
    step_afterStep (by decide), by decide, by decide, ?_, step_afterStep (by decide), by decide, by decide⟩
  exact .more _ _ _ (step_afterStep (by decide)) (by decide) (by decide) (.here _)

/-- The bake relay forced at 0 ms by the mode of `pot0`, then `pot` latched, then a TICK in Bake mode at 50 ms. -/
def forcedThenBake (bake : Bool) (pot0 : Sample) (pot : BitVec 16) : State :=
  { runningAt 0#32 with
    in2 := pot0
    oven := { Oven.zero with bake := bake, lastT := 1#32 }
    pending := [.command 0x10000000#32, .command (encode (.setin .ovenPot pot)), .command 0x02000032#32,
      .command 0x10000000#32] }

/-- What the last TICK of `forcedThenBake` leaves of the bake relay. -/
theorem forcedThenBake_off :
    (afterStep (afterStep (afterStep (afterStep (forcedThenBake true 0#12 4094#16))))).oven.bake =
      bakeNext config 50#32
        { Oven.zero with temp := Config.sensorTransfer 0#12, sp := 525#10, mode := .bake, bake := false } := rfl

/-- The same after Broil had forced the relay on. -/
theorem forcedThenBake_on :
    (afterStep (afterStep (afterStep (afterStep (forcedThenBake false 4095#12 187#16))))).oven.bake =
      bakeNext config 50#32
        { Oven.zero with temp := Config.sensorTransfer 0#12, sp := 25#10, mode := .bake, bake := true } := rfl

/-- A run of four steps that meets every hypothesis, once the last one is known to change the relay. -/
theorem bakeChanges_of (s : State) (h : stepsOn s = true ∧ ¬ ResetsNext s ∧ (afterStep s).oven.bake ≠ s.oven.bake)
    (q1 : stepsOn (afterStep s) = true ∧ ¬ ResetsNext (afterStep s) ∧
      (afterStep (afterStep s)).oven.bake = (afterStep s).oven.bake)
    (q2 : stepsOn (afterStep (afterStep s)) = true ∧ ¬ ResetsNext (afterStep (afterStep s)) ∧
      (afterStep (afterStep (afterStep s))).oven.bake = (afterStep (afterStep s)).oven.bake)
    (l : stepsOn (afterStep (afterStep (afterStep s))) = true ∧ ¬ ResetsNext (afterStep (afterStep (afterStep s))) ∧
      (afterStep (afterStep (afterStep (afterStep s)))).oven.mode = .bake)
    (c : (afterStep (afterStep (afterStep (afterStep s)))).oven.bake ≠
      (afterStep (afterStep (afterStep s))).oven.bake) :
    ∃ s0 s1 s2 s3 : State, step s0 = .next s1 ∧ ¬ ResetsNext s0 ∧ s1.oven.bake ≠ s0.oven.bake ∧
      QuietBake s1 s2 ∧ step s2 = .next s3 ∧ ¬ ResetsNext s2 ∧ s3.oven.bake ≠ s2.oven.bake ∧
      s3.oven.mode = .bake :=
  ⟨s, _, _, _, step_afterStep h.1, h.2.1, h.2.2,
    .more _ _ _ (step_afterStep q1.1) q1.2.1 q1.2.2 (.more _ _ _ (step_afterStep q2.1) q2.2.1 q2.2.2 (.here _)),
    step_afterStep l.1, l.2.1, c, l.2.2⟩

/-- Whatever the free transfer function gives for the sensor value 0 (assumption 3): below 523 the bake relay comes
on at setpoint 525 after Off had forced it off; from 523 on it goes off at setpoint 25 after Broil had forced it on. -/
theorem witness_BakeChangesAreDebounced :
    ∃ s0 s1 s2 s3 : State, step s0 = .next s1 ∧ ¬ ResetsNext s0 ∧ s1.oven.bake ≠ s0.oven.bake ∧
      QuietBake s1 s2 ∧ step s2 = .next s3 ∧ ¬ ResetsNext s2 ∧ s3.oven.bake ≠ s2.oven.bake ∧
      s3.oven.mode = .bake := by
  by_cases h : (Config.sensorTransfer 0#12).toInt < 523
  · refine bakeChanges_of (forcedThenBake true 0#12 4094#16) (by decide) (by decide) (by decide) (by decide) ?_
    rw [forcedThenBake_off]
    have e : bakeIntended config (Config.sensorTransfer 0#12) 525#10 false = true := if_pos h
    simp [bakeNext, e, Oven.zero, tdiff]
    decide
  · refine bakeChanges_of (forcedThenBake false 4095#12 187#16) (by decide) (by decide) (by decide) (by decide) ?_
    rw [forcedThenBake_on]
    have e : bakeIntended config (Config.sensorTransfer 0#12) 25#10 true = false := by
      simp [bakeIntended]
      omega
    simp [bakeNext, e, Oven.zero, tdiff]
    decide

/-- The two ends of the Bake range, and both sides of the debounce interval; the first change is one of these two
states' whatever the free transfer function gives. -/
theorem witness_BakeRelayHysteresisAndDebounce :
    (Running { runningAt 50#32 with in2 := 187#12 } ∧ CursorsLegal { runningAt 50#32 with in2 := 187#12 } ∧
      187 ≤ (187#12 : Sample).toNat) ∧
    (Running { runningAt 49#32 with in2 := 4094#12 } ∧ CursorsLegal { runningAt 49#32 with in2 := 4094#12 } ∧
      (4094#12 : Sample).toNat ≤ 4094) ∧
    50 ≤ ((50#32 : Word) - 0#32).toNat ∧ ((49#32 : Word) - 0#32).toNat < 50 ∧
    (bakeIntended config (Config.sensorTransfer 0#12) 525#10 false = true ∨
      bakeIntended config (Config.sensorTransfer 0#12) 25#10 true = false) := by
  refine ⟨by decide, by decide, by decide, by decide, ?_⟩
  by_cases h : (Config.sensorTransfer 0#12).toInt < 523
  · exact .inl (if_pos h)
  · right
    simp [bakeIntended]
    omega

end Sys2Proof.Tests
end

section
/-! Proofs of the statements on the scope of the block (00_scope.md): what a step runs (R5) and the constants of this
hardware (R7). -/

namespace Sys2Proof.Machine

/-! ### The command port -/

/-- R5: the block accepts the event at the head of the port, and only the port moves on. -/
theorem acceptEvent_of_pending {s : State} {e : HostEvent} {rest : List HostEvent} (h : s.pending = e :: rest) :
    acceptEvent s = some (e, { s with pending := rest }) := by
  simp only [acceptEvent, h]

/-- Settles O9: the port hands the word to the decoder, and the dispatch runs the command it finds. -/
theorem stepRunsDecodedCommand : Obligations.StepRunsDecodedCommand := by
  unfold Obligations.StepRunsDecodedCommand
  intro s w rest i hpending hdecode
  have haccept := acceptEvent_of_pending hpending
  simp only [step, haccept, hdecode]

/-! ### The configuration -/

/-- Settles O59: the constants are the fields of `config`, and the two derived ones have their own lemmas. -/
theorem configurationValues : Obligations.ConfigurationValues := by
  unfold Obligations.ConfigurationValues
  exact ⟨rfl, rfl, rfl, rfl, rfl, rfl, rfl, rfl, rfl, rfl, rfl, rfl, rfl, rfl, rfl, rfl, rfl, rfl, rfl, rfl,
    ovenSteps_config, maxSupplyW_config⟩

end Sys2Proof.Machine
end

section
/-! Proofs of the statements on the state (10_state.md): the STATUS view (R45), no hidden state (R47), the run states
(R43), and the legal values of every element with the relations between elements (R20). -/

namespace Sys2Proof.Machine

/-! ### The state after reset -/

/-- R281: all slots 0, so the sum and the mean are 0. -/
theorem filterLegal_zero : FilterLegal RingFilter.zero := by decide

theorem burnerLegal_zero : BurnerLegal Burner.zero := ⟨filterLegal_zero, by decide, by decide⟩

theorem ovenLegal_zero : OvenLegal Oven.zero := ⟨filterLegal_zero, by decide, by decide, by decide⟩

/-- Settles O52: every part of the state after reset is legal. -/
theorem resetIsLegal : Obligations.ResetIsLegal := by
  unfold Obligations.ResetIsLegal
  exact ⟨burnerLegal_zero, burnerLegal_zero, ovenLegal_zero, by decide, by decide, by decide, by decide, by decide⟩

/-! ### The filters -/

/-- Ten samples of at most 4095 (R25). -/
theorem slotSum_le (f : RingFilter config) : slotSum f ≤ 40950 := by
  have hslot : ∀ v ∈ f.buf.toList.map BitVec.toNat, v ≤ 4095 := by
    intro v hv
    obtain ⟨x, -, rfl⟩ := List.mem_map.mp hv
    exact Nat.le_of_lt_succ x.isLt
  simpa [slotSum] using List.sum_le_card_nsmul _ 4095 hslot

/-- FILTER_UPDATE keeps `SUM` the sum of the slots: neither the difference nor the new sum wraps (R102). -/
theorem filterUpdate_sum {x : Sample} {f g : RingFilter config} (hsum : f.sum.toNat = slotSum f)
    (h : filterUpdate config x f = some g) : g.sum.toNat = slotSum g := by
  obtain ⟨hk, hg⟩ := filterUpdate_eq_some.mp h
  have hbuf : g.buf = f.buf.set f.cur.toNat x := by rw [hg]
  have hnew : g.sum = f.sum - (f.buf[f.cur.toNat]).setWidth 16 + x.setWidth 16 := by rw [hg]
  have htrade := slotSum_of_buf_set hk hbuf
  have hle := slotSum_le g
  have hx := x.isLt
  have hold := (f.buf[f.cur.toNat]).isLt
  rw [hnew, BitVec.toNat_add, BitVec.toNat_sub, BitVec.toNat_setWidth, BitVec.toNat_setWidth]
  omega

/-- The mean that FILTER_UPDATE stores fits the 12 bits of `CV` (R101, R105). -/
theorem filterUpdate_cv {x : Sample} {f g : RingFilter config} (hsum : f.sum.toNat = slotSum f)
    (h : filterUpdate config x f = some g) : g.cv.toNat = g.sum.toNat / 10 := by
  have hexact := filterUpdate_sum hsum h
  have hle := slotSum_le g
  obtain ⟨hk, hg⟩ := filterUpdate_eq_some.mp h
  have hmean : g.cv = BitVec.ofNat 12 (g.sum.toNat / 10) := by rw [hg]
  rw [hmean, BitVec.toNat_ofNat]
  omega

theorem filterUpdate_keeps_legal {x : Sample} {f g : RingFilter config} (hf : FilterLegal f)
    (h : filterUpdate config x f = some g) : FilterLegal g := by
  obtain ⟨-, hsum, -⟩ := hf
  have hcur := filterUpdate_cur h
  exact ⟨by omega, filterUpdate_sum hsum h, filterUpdate_cv hsum h⟩

/-! ### The burner channels and the cycle position -/

theorem dutyMap_le {cv : Sample} {held : BitVec 5} (h : held.toNat ≤ 30) : (dutyMap config cv held).toNat ≤ 30 := by
  rw [dutyMap_toNat]
  split
  · exact rawDuty_le cv
  · exact h

theorem burnerTick_keeps_legal {t pos : Time config} {x : Sample} {b b' : Burner config} (hb : BurnerLegal b)
    (h : burnerTick config t pos x b = some b') : BurnerLegal b' := by
  obtain ⟨hfilter, hduty, -⟩ := hb
  obtain ⟨f, hf, rfl⟩ := burnerTick_eq_some.mp h
  unfold BurnerLegal
  rw [schedDecide_filter, schedDecide_duty, schedDecide_prevDuty]
  exact ⟨filterUpdate_keeps_legal hfilter hf, dutyMap_le hduty, hduty⟩

/-- The cycle position never passes the cycle's length: past it the cycle restarts at the tick (R33, R140). -/
theorem cyclePosition_le (t start : Time config) : (cyclePosition config t start).toNat ≤ 30000 := by
  unfold cyclePosition cycleAdvance
  split
  · simp
  · next h => exact Nat.le_of_not_gt h

/-! ### The oven -/

/-- The relays that OVEN_RELAY leaves agree with the mode, and the mode with the setpoint (R161, R164 to R166). -/
theorem ovenRelay_modeLegal (t : Time config) {o : Oven config} (hmode : o.mode = ovenMode config o.sp) :
    OvenModeLegal (ovenRelay config t o) := by
  obtain ⟨hoff, hbake, hbroil⟩ := ovenMode_config o.sp
  rw [← hmode] at hoff hbake hbroil
  refine ⟨fun hsp => ?_, fun hsp => ?_, fun hsp => ?_⟩
  · have hm := hoff.mpr hsp
    simp [bakeNext, broilNext, hm]
  · have hm := hbake.mpr hsp
    simp [broilNext, hm]
  · have hm := hbroil.mpr hsp
    simp [bakeNext, broilNext, hm]

theorem ovenTick_keeps_legal {t : Time config} {pot x : Sample} {o o' : Oven config} (ho : OvenLegal o)
    (h : ovenTick config t pot x o = some o') : OvenLegal o' := by
  obtain ⟨hfilter, -⟩ := ho
  obtain ⟨f, hf, rfl⟩ := ovenTick_eq_some.mp h
  have hsp := setpoint_toNat pot
  refine ⟨filterUpdate_keeps_legal hfilter hf, ?_, ?_, ovenRelay_modeLegal t rfl⟩
  · show (setpoint config pot).toNat % 25 = 0
    omega
  · show (setpoint config pot).toNat ≤ 550
    omega

/-! ### The power budget and the error record -/

/-- The split and the overload flag of a request that the registers can hold (R192 to R195). -/
theorem arbitrate_budgetLegal {s : State} (h0 : s.burner0.duty.toNat ≤ 30) (h1 : s.burner1.duty.toNat ≤ 30) :
    BudgetLegal (arbitrate s) := by
  have hduties : ∀ c, (burnerOf c s).duty.toNat ≤ 30 := fun c => by cases c <;> assumption
  obtain ⟨hduty, hwatts⟩ := totals_le s.oven hduties
  unfold BudgetLegal arbitrate budgetOf overload battShare gridShare
  simp only [BitVec.toNat_ofNat, decide_eq_true_eq, maxSupplyW_config]
  omega

/-- Recording one of the codes 1 to 4 (R251, R253). -/
theorem recorded_errorLegal {s : State} {code : BitVec 3} (h : ErrorLegal s) (hcode : code.toNat ≤ 4 ∧ code ≠ 0#3) :
    ErrorLegal (recorded code s) := by
  unfold ErrorLegal at h ⊢
  rw [recorded_errCode, recorded_err]
  split
  · next herr => exact ⟨h.1, by simpa [herr] using h.2⟩
  · exact ⟨hcode.1, by simpa using hcode.2⟩

theorem clearError_errorLegal (s : State) : ErrorLegal (clearError s) := ⟨by simp, by simp⟩

/-! ### What a command does -/

/-- Everything a command can do to the state when it answers (45_commands.md): write latches, the clock or the read
port, record an error, clear the record, start, halt, reset or tick. -/
inductive CommandEffect (s : State) : Instr → State → Prop
  | writesInputs {i : Instr} (now : Time config) (in0 in1 in2 in3 : Sample) (rdata : Word) :
    CommandEffect s i { s with now := now, in0 := in0, in1 := in1, in2 := in2, in3 := in3, rdata := rdata }
  | recordsError {i : Instr} (code : BitVec 3) (rdata : Word) (hcode : code = 3#3 ∨ code = 4#3) :
    CommandEffect s i (recorded code { s with rdata := rdata })
  | clearsError : CommandEffect s .clrerr (clearError s)
  | starts (hhalt : s.halt = false) (hrun : s.run = false) : CommandEffect s (.start true) { s with run := true }
  | halts (hhalt : s.halt = false) (hrun : s.run = false) : CommandEffect s (.start false) { s with halt := true }
  | resets : CommandEffect s .rst { State.reset with pending := s.pending }
  | ticks {t : State} (hrun : s.run = true) (htick : tickBody s = some t) : CommandEffect s .tick t

/-- The effect of a command that HALTED ignores, or that changes nothing. -/
theorem CommandEffect.same {i : Instr} {s : State} : CommandEffect s i s :=
  .writesInputs s.now s.in0 s.in1 s.in2 s.in3 s.rdata

/-- Behind the HALTED gate a command has the effect it has outside HALTED, or none (R210). -/
theorem CommandEffect.of_gate {i : Instr} {s t u : State} (hu : CommandEffect s i u)
    (h : (if s.halt = true then Host.Outcome.next s else .next u : Result) = .next t) : CommandEffect s i t := by
  split at h
  · cases h
    exact .same
  · cases h
    exact hu

/-- NOP completes in every state (R211). -/
theorem exec_nop_eq (s : State) : exec .nop s = .next s := ite_self _

theorem writeInput_effect (i : Instr) (sel : InputSel) (v : Sample) (s : State) :
    CommandEffect s i (writeInput sel v s) := by
  cases sel with
  | burner0 => exact .writesInputs s.now v s.in1 s.in2 s.in3 s.rdata
  | burner1 => exact .writesInputs s.now s.in0 v s.in2 s.in3 s.rdata
  | ovenPot => exact .writesInputs s.now s.in0 s.in1 v s.in3 s.rdata
  | ovenTemp => exact .writesInputs s.now s.in0 s.in1 s.in2 v s.rdata

/-- What START can do: an error in RUNNING, else RUNNING or HALTED by the sink (R220). -/
theorem start_effect {sinkOk : Bool} {s t : State} (h : exec (.start sinkOk) s = .next t) :
    CommandEffect s (.start sinkOk) t := by
  rw [exec_start_eq] at h
  split at h
  · cases h
    exact .same
  · next hhalt =>
    split at h
    · cases h
      exact .recordsError 3#3 s.rdata (.inl rfl)
    · next hrun =>
      cases sinkOk with
      | true =>
        cases h
        exact .starts (Bool.eq_false_iff.mpr hhalt) (Bool.eq_false_iff.mpr hrun)
      | false =>
        cases h
        exact .halts (Bool.eq_false_iff.mpr hhalt) (Bool.eq_false_iff.mpr hrun)

/-- What RDREG can do: the read value, or BAD_REG (R218, R219). -/
theorem rdreg_effect {idx : BitVec 8} {s t : State} (h : exec (.rdreg idx) s = .next t) :
    CommandEffect s (.rdreg idx) t := by
  rw [execRdreg_eq] at h
  cases hread : readIndex idx s with
  | some v =>
    rw [hread] at h
    cases h
    exact .writesInputs s.now s.in0 s.in1 s.in2 s.in3 v
  | none =>
    rw [hread] at h
    cases h
    exact .recordsError 4#3 0#32 (.inr rfl)

/-- What TICK can do: nothing in HALTED, BAD_STATE in IDLE, its body in RUNNING (R215). -/
theorem tick_effect {s t : State} (h : exec .tick s = .next t) : CommandEffect s .tick t := by
  rcases execTick_cases h with ⟨-, rfl⟩ | ⟨-, -, rfl⟩ | ⟨-, hrun, htick⟩
  · exact .same
  · exact .recordsError 3#3 s.rdata (.inl rfl)
  · exact .ticks hrun htick

/-- Every command that answers a next state has one of the effects. -/
theorem effect_of_exec {i : Instr} {s t : State} (h : exec i s = .next t) : CommandEffect s i t := by
  cases i with
  | nop =>
    rw [exec_nop_eq] at h
    cases h
    exact .same
  | setin sel val =>
    rw [exec_setin_eq] at h
    exact .of_gate (writeInput_effect _ sel _ s) h
  | settl val =>
    rw [exec_settl_eq] at h
    exact .of_gate (.writesInputs _ s.in0 s.in1 s.in2 s.in3 s.rdata) h
  | setth val =>
    rw [exec_setth_eq] at h
    exact .of_gate (.writesInputs _ s.in0 s.in1 s.in2 s.in3 s.rdata) h
  | tick => exact tick_effect h
  | rdreg idx => exact rdreg_effect h
  | start sinkOk => exact start_effect h
  | clrerr =>
    rw [exec_clrerr_eq] at h
    exact .of_gate .clearsError h
  | rst =>
    cases h
    exact .resets

/-! ### Legality over a step -/

theorem recorded_legal {s : State} {code : BitVec 3} (h : Legal s) (hcode : code.toNat ≤ 4 ∧ code ≠ 0#3) :
    Legal (recorded code s) := by
  obtain ⟨hb0, hb1, hoven, hbudget, herror, hpos, hstate, hrelays⟩ := h
  exact ⟨hb0, hb1, hoven, hbudget, recorded_errorLegal herror hcode, hpos, hstate, hrelays⟩

theorem clearError_legal {s : State} (h : Legal s) : Legal (clearError s) := by
  obtain ⟨hb0, hb1, hoven, hbudget, -, hpos, hstate, hrelays⟩ := h
  exact ⟨hb0, hb1, hoven, hbudget, clearError_errorLegal s, hpos, hstate, hrelays⟩

/-- A tick rebuilds every element it writes in its legal values (R216). -/
theorem tickBody_keeps_legal {s t : State} (h : Legal s) (hrun : s.run = true) (htick : tickBody s = some t) :
    Legal t := by
  obtain ⟨hb0, hb1, hoven, -, herror, -, hstate, -⟩ := h
  obtain ⟨b0, b1, o, h0, h1, ho, rfl⟩ := tickBody_eq_some.mp htick
  obtain ⟨hfilter0, hduty0, hprev0⟩ := burnerTick_keeps_legal hb0 h0
  obtain ⟨hfilter1, hduty1, hprev1⟩ := burnerTick_keeps_legal hb1 h1
  exact ⟨⟨hfilter0, hduty0, hprev0⟩, ⟨hfilter1, hduty1, hprev1⟩, ovenTick_keeps_legal hoven ho,
    arbitrate_budgetLegal hduty0 hduty1, herror, cyclePosition_le _ _, hstate,
    fun hidle => absurd hrun (Bool.eq_false_iff.mp hidle)⟩

/-- Every effect of a command keeps the state legal. -/
theorem CommandEffect.keeps_legal {i : Instr} {s t : State} (h : CommandEffect s i t) (hs : Legal s) : Legal t := by
  cases h with
  | writesInputs => exact hs
  | recordsError code rdata hcode =>
    refine recorded_legal (s := { s with rdata := rdata }) hs ?_
    rcases hcode with rfl | rfl <;> decide
  | clearsError => exact clearError_legal hs
  | starts hhalt hrun =>
    obtain ⟨hb0, hb1, hoven, hbudget, herror, hpos, -, -⟩ := hs
    exact ⟨hb0, hb1, hoven, hbudget, herror, hpos, by simp [hhalt], by simp⟩
  | halts hhalt hrun =>
    obtain ⟨hb0, hb1, hoven, hbudget, herror, hpos, -, hrelays⟩ := hs
    exact ⟨hb0, hb1, hoven, hbudget, herror, hpos, by simp [hrun], hrelays⟩
  | resets => exact resetIsLegal
  | ticks hrun htick => exact tickBody_keeps_legal hs hrun htick

/-- Settles O53, by what a step can do: it holds, resets, runs a command, or rejects a word. -/
theorem everyStepKeepsLegality : Obligations.EveryStepKeepsLegality := by
  unfold Obligations.EveryStepKeepsLegality
  intro s t hs h
  rcases step_cases h with ⟨-, rfl⟩ | ⟨rest, -, rfl⟩ | ⟨w, rest, i, -, -, hexec⟩ | ⟨w, rest, -, hrejected, -⟩
  · exact hs
  · exact resetIsLegal
  · exact (effect_of_exec hexec).keeps_legal hs
  · rcases hrejected with rfl | ⟨code, hcode, rfl⟩
    · exact hs
    · refine recorded_legal (s := { s with pending := rest }) hs ?_
      fin_cases hcode <;> decide

/-! ### The run states -/

/-- The RST command has one word (R82). -/
theorem word_of_decode_rst {w : Word} (h : decode w = .cmd .rst) : w = 0xFF000000#32 := by
  obtain ⟨op, hmatch, hop⟩ := match_of_decode h
  cases op with
  | rst =>
    rw [← BitVec.and_allOnes (x := w)]
    exact hmatch
  | _ => simp [Opcode.operands] at hop

/-- The START command with SINK_OK = 0 has one word (R82, R83). -/
theorem word_of_decode_start_false {w : Word} (h : decode w = .cmd (.start false)) : w = 0x30000000#32 := by
  obtain ⟨op, hmatch, hop⟩ := match_of_decode h
  cases op with
  | start =>
    have hbit : w.getLsbD 0 = false := (Instr.start.inj hop).symm
    calc
      w = w &&& (0xFFFFFFFE#32 ||| 1#32) := BitVec.and_allOnes.symm
      _ = (w &&& 0xFFFFFFFE#32) ||| (w &&& 1#32) := BitVec.and_or_distrib_left
      _ = 0x30000000#32 ||| 0#32 := by
        rw [show w &&& 0xFFFFFFFE#32 = 0x30000000#32 from hmatch, BitVec.and_one_eq_setWidth_ofBool_getLsbD, hbit]
        rfl
      _ = 0x30000000#32 := rfl
  | _ => simp [Opcode.operands] at hop

/-- A tick does not write `HALT` (R216). -/
theorem tickBody_halt {s t : State} (h : tickBody s = some t) : t.halt = s.halt := by
  obtain ⟨b0, b1, o, -, -, -, rfl⟩ := tickBody_eq_some.mp h
  rfl

/-- Only RST clears `HALT` (R43). -/
theorem CommandEffect.of_halt_cleared {i : Instr} {s t : State} (h : CommandEffect s i t) (hs : s.halt = true)
    (ht : t.halt = false) : i = .rst := by
  cases h with
  | resets => rfl
  | ticks hrun htick =>
    rw [tickBody_halt htick, hs] at ht
    cases ht
  | _ => simp_all

/-- Only START with SINK_OK = 0 outside RUNNING sets `HALT` (R258). -/
theorem CommandEffect.of_halt_set {i : Instr} {s t : State} (h : CommandEffect s i t) (hs : s.halt = false)
    (ht : t.halt = true) : i = .start false ∧ s.run = false := by
  cases h with
  | halts hhalt hrun => exact ⟨rfl, hrun⟩
  | ticks hrun htick =>
    rw [tickBody_halt htick, hs] at ht
    cases ht
  | _ => simp_all

/-- Settles O56, by the effects that change `HALT` and the one word of each of their commands. -/
theorem onlyResetLeavesHalted : Obligations.OnlyResetLeavesHalted := by
  unfold Obligations.OnlyResetLeavesHalted
  intro s t h
  rcases step_cases h with ⟨-, rfl⟩ | ⟨rest, hport, rfl⟩ | ⟨w, rest, i, hport, hdecode, hexec⟩ |
    ⟨w, rest, -, hrejected, -⟩
  · simp_all
  · exact ⟨fun _ _ => .inl (by rw [hport]; rfl), fun _ ht => absurd ht (by simp)⟩
  · have heffect := effect_of_exec hexec
    refine ⟨fun hs ht => .inr ?_, fun hs ht => ?_⟩
    · obtain rfl := heffect.of_halt_cleared hs ht
      rw [hport, word_of_decode_rst hdecode]
      rfl
    · obtain ⟨rfl, hrun⟩ := heffect.of_halt_set hs ht
      rw [hport, word_of_decode_start_false hdecode]
      exact ⟨hrun, rfl⟩
  · have hhalt : t.halt = s.halt := by rcases hrejected with rfl | ⟨code, -, rfl⟩ <;> rfl
    simp_all

/-! ### The STATUS view -/

/-- The bits of STATUS, from bit 0 up (R45). -/
theorem statusWord_getLsbD (s : State) (i : Nat) :
    (statusWord s).getLsbD i =
      ([s.run, s.halt, s.err, false, s.errCode.getLsbD 0, s.errCode.getLsbD 1, s.errCode.getLsbD 2, false, s.pca,
        (modeBits s.oven.mode).getLsbD 0, (modeBits s.oven.mode).getLsbD 1, s.burner0.relay, s.burner1.relay,
        s.oven.bake, s.oven.broil].getD i false) := by
  by_cases h : i < 15
  · unfold statusWord
    simp only [BitVec.getLsbD_setWidth, BitVec.getLsbD_append, BitVec.getLsbD_ofBool]
    interval_cases i <;> simp
  · rw [statusWord, BitVec.getLsbD_setWidth, BitVec.getLsbD_of_ge _ i (by omega), Bool.and_false,
      List.getD_eq_default _ _ (by simp; omega)]

/-- `ERRCODE` stands in bits 6:4 (R45). -/
theorem statusWord_errCode (s : State) : (statusWord s).extractLsb' 4 3 = s.errCode := by
  apply BitVec.eq_of_getLsbD_eq
  intro i hi
  rw [BitVec.getLsbD_extractLsb', statusWord_getLsbD]
  interval_cases i <;> rfl

/-- `MODE` stands in bits 10:9 (R45). -/
theorem statusWord_mode (s : State) : (statusWord s).extractLsb' 9 2 = modeBits s.oven.mode := by
  apply BitVec.eq_of_getLsbD_eq
  intro i hi
  rw [BitVec.getLsbD_extractLsb', statusWord_getLsbD]
  interval_cases i <;> rfl

/-- Bits 31:15 are hardwired to 0 (R45). -/
theorem statusWord_high (s : State) : (statusWord s).extractLsb' 15 17 = 0#17 := by
  apply BitVec.eq_of_getLsbD_eq
  intro i hi
  rw [BitVec.getLsbD_extractLsb', statusWord_getLsbD, List.getD_eq_default _ _ (by simp)]
  simp

/-- Settles O19, from the table of the bits. -/
theorem statusLayout : Obligations.StatusLayout := by
  unfold Obligations.StatusLayout
  refine ⟨fun s => ?_, by decide⟩
  have hbit := statusWord_getLsbD s
  have hmode : ((statusWord s).extractLsb' 9 2).toNat =
      match s.oven.mode with | .off => 0 | .bake => 1 | .broil => 2 := by
    rw [statusWord_mode]
    cases s.oven.mode <;> rfl
  exact ⟨hbit 0, hbit 1, hbit 2, hbit 3, statusWord_errCode s, hbit 7, hbit 8, hmode, hbit 11, hbit 12, hbit 13,
    hbit 14, statusWord_high s⟩

/-! ### No hidden state -/

/-- The index that R61's table gives a register. -/
def indexOfReg : Reg → BitVec 8
  | .status => 0x00#8
  | .now => 0x01#8
  | .input sel => BitVec.ofNat 8 (0x02 + sel.number)
  | .cycStart => 0x06#8
  | .cycPos => 0x07#8
  | .cv .f0 => 0x10#8
  | .cv .f1 => 0x18#8
  | .cv .f2 => 0x20#8
  | .sum .f0 => 0x15#8
  | .sum .f1 => 0x1D#8
  | .sum .f2 => 0x27#8
  | .cur .f0 => 0x16#8
  | .cur .f1 => 0x1E#8
  | .cur .f2 => 0x28#8
  | .duty .b0 => 0x11#8
  | .duty .b1 => 0x19#8
  | .prevDuty .b0 => 0x12#8
  | .prevDuty .b1 => 0x1A#8
  | .relay .b0 => 0x13#8
  | .relay .b1 => 0x1B#8
  | .lastT .b0 => 0x14#8
  | .lastT .b1 => 0x1C#8
  | .temp => 0x21#8
  | .sp => 0x22#8
  | .mode => 0x23#8
  | .bake => 0x24#8
  | .broil => 0x25#8
  | .ovenLastT => 0x26#8
  | .totDuty => 0x30#8
  | .totW => 0x31#8
  | .gridW => 0x32#8
  | .battW => 0x33#8
  | .pca => 0x34#8
  | .buf .f0 k => BitVec.ofNat 8 (0x40 + k.val)
  | .buf .f1 k => BitVec.ofNat 8 (0x50 + k.val)
  | .buf .f2 k => BitVec.ofNat 8 (0x60 + k.val)

/-- Every register has an index (R47, R61). -/
theorem regOfIndex_indexOfReg (r : Reg) : regOfIndex (indexOfReg r) = some r := by
  cases r with
  | input sel => cases sel <;> rfl
  | cv f | sum f | cur f => cases f <;> rfl
  | duty c | prevDuty c | relay c | lastT c => cases c <;> rfl
  | buf f k =>
    have hslots : ∀ k : Fin 10, regOfIndex (indexOfReg (.buf f k)) = some (.buf f k) := by cases f <;> decide
    exact hslots k
  | _ => rfl

/-- Zero-extension to 32 bits loses nothing (R62). -/
theorem eq_of_setWidth_eq {n : Nat} (hn : n ≤ 32) {a b : BitVec n} (h : a.setWidth 32 = b.setWidth 32) : a = b := by
  have hback := congrArg (BitVec.setWidth n) h
  simpa [BitVec.setWidth_setWidth_of_le _ hn] using hback

/-- Sign-extension to 32 bits loses nothing (R62). -/
theorem eq_of_signExtend_eq {a b : BitVec 16} (h : a.signExtend 32 = b.signExtend 32) : a = b := by
  have hback := congrArg BitVec.toInt h
  rw [BitVec.toInt_signExtend_of_le (by decide), BitVec.toInt_signExtend_of_le (by decide)] at hback
  exact BitVec.eq_of_toInt_eq hback

theorem bitWord_inj {a b : Bool} (h : bitWord a = bitWord b) : a = b := by
  revert a b
  decide

/-- The three modes have three encodings (R36). -/
theorem modeBits_inj {a b : OvenMode} (h : modeBits a = modeBits b) : a = b := by
  cases a <;> cases b <;> simp_all [modeBits]

/-- Reading every index reads every register (R61). -/
theorem regRead_eq_of_readIndex_eq {s t : State} (h : ∀ idx, readIndex idx s = readIndex idx t) (r : Reg) :
    regRead r s = regRead r t := by
  have hr := h (indexOfReg r)
  simpa [readIndex, regOfIndex_indexOfReg] using hr

section
variable {s t : State} (hreads : ∀ r, regRead r s = regRead r t)
include hreads

theorem readInput_eq_of_reads (sel : InputSel) : readInput sel s = readInput sel t :=
  eq_of_setWidth_eq (by decide) (hreads (.input sel))

theorem filterOf_eq_of_reads (f : FilterId) : filterOf f s = filterOf f t := by
  have hbuf : (filterOf f s).buf = (filterOf f t).buf :=
    Vector.ext fun k hk => eq_of_setWidth_eq (by decide) (hreads (.buf f ⟨k, hk⟩))
  have hsum : (filterOf f s).sum = (filterOf f t).sum := eq_of_setWidth_eq (by decide) (hreads (.sum f))
  have hcur : (filterOf f s).cur = (filterOf f t).cur := eq_of_setWidth_eq (by decide) (hreads (.cur f))
  have hcv : (filterOf f s).cv = (filterOf f t).cv := eq_of_setWidth_eq (by decide) (hreads (.cv f))
  cases hs : filterOf f s
  cases ht : filterOf f t
  simp_all

theorem burnerOf_eq_of_reads (c : Chan) : burnerOf c s = burnerOf c t := by
  have hfilter : (burnerOf c s).filter = (burnerOf c t).filter := by
    cases c with
    | b0 => exact filterOf_eq_of_reads hreads .f0
    | b1 => exact filterOf_eq_of_reads hreads .f1
  have hduty : (burnerOf c s).duty = (burnerOf c t).duty := eq_of_setWidth_eq (by decide) (hreads (.duty c))
  have hprev : (burnerOf c s).prevDuty = (burnerOf c t).prevDuty :=
    eq_of_setWidth_eq (by decide) (hreads (.prevDuty c))
  have hrelay : (burnerOf c s).relay = (burnerOf c t).relay := bitWord_inj (hreads (.relay c))
  have hlast : (burnerOf c s).lastT = (burnerOf c t).lastT := eq_of_setWidth_eq (by decide) (hreads (.lastT c))
  cases hs : burnerOf c s
  cases ht : burnerOf c t
  simp_all

theorem oven_eq_of_reads : s.oven = t.oven := by
  have hfilter : s.oven.filter = t.oven.filter := filterOf_eq_of_reads hreads .f2
  have htemp : s.oven.temp = t.oven.temp := eq_of_signExtend_eq (hreads .temp)
  have hsp : s.oven.sp = t.oven.sp := eq_of_setWidth_eq (by decide) (hreads .sp)
  have hmode : s.oven.mode = t.oven.mode := modeBits_inj (eq_of_setWidth_eq (by decide) (hreads .mode))
  have hbake : s.oven.bake = t.oven.bake := bitWord_inj (hreads .bake)
  have hbroil : s.oven.broil = t.oven.broil := bitWord_inj (hreads .broil)
  have hlast : s.oven.lastT = t.oven.lastT := eq_of_setWidth_eq (by decide) (hreads .ovenLastT)
  cases hs : s.oven
  cases ht : t.oven
  simp_all

theorem budget_eq_of_reads : s.budget = t.budget := by
  have hduty : s.budget.totDuty = t.budget.totDuty := eq_of_setWidth_eq (by decide) (hreads .totDuty)
  have hwatts : s.budget.totW = t.budget.totW := eq_of_setWidth_eq (by decide) (hreads .totW)
  have hgrid : s.budget.gridW = t.budget.gridW := eq_of_setWidth_eq (by decide) (hreads .gridW)
  have hbatt : s.budget.battW = t.budget.battW := eq_of_setWidth_eq (by decide) (hreads .battW)
  cases hs : s.budget
  cases ht : t.budget
  simp_all

end

/-- Settles O20: every element is behind an index, in a form from which it can be read back. -/
theorem noHiddenState : Obligations.NoHiddenState := by
  unfold Obligations.NoHiddenState
  intro s t hindices hrun hhalt herr hcode hrdata hpending
  have hreads := regRead_eq_of_readIndex_eq hindices
  have hnow : s.now = t.now := eq_of_setWidth_eq (by decide) (hreads .now)
  have hstart : s.cycStart = t.cycStart := eq_of_setWidth_eq (by decide) (hreads .cycStart)
  have hpos : s.cycPos = t.cycPos := eq_of_setWidth_eq (by decide) (hreads .cycPos)
  have hpca : s.pca = t.pca := bitWord_inj (hreads .pca)
  have hinput := readInput_eq_of_reads hreads
  have hburner := burnerOf_eq_of_reads hreads
  have hoven := oven_eq_of_reads hreads
  have hbudget := budget_eq_of_reads hreads
  cases s
  cases t
  rw [State.mk.injEq]
  exact ⟨hnow, hinput .burner0, hinput .burner1, hinput .ovenPot, hinput .ovenTemp, hstart, hpos, hburner .b0,
    hburner .b1, hoven, hbudget, hpca, hrun, hhalt, herr, hcode, hrdata, hpending⟩

end Sys2Proof.Machine
end

section
/-! Proofs of the statements on the memory family (20_memory.md): the block has no memory, and what stands in its
place is the register index space of RDREG (R61 to R63), a platform link's byte order (R64), and the rules that every
command runs to completion (R67) and that a read has no side effect (R68). -/

namespace Sys2Proof

/-! ### The bytes of a word on a link -/

/-- R64: the four bytes, put together again from the most significant down, are adjacent slices of the word. -/
theorem wordOfLink_linkBytes (w : Word) : wordOfLink (linkBytes w) = some w := by
  have hslices : w.extractLsb' 24 8 ++ w.extractLsb' 16 8 ++ w.extractLsb' 8 8 ++ w.extractLsb' 0 8 = w := by
    rw [BitVec.extractLsb'_append_extractLsb'_eq_extractLsb' (by decide),
      BitVec.extractLsb'_append_extractLsb'_eq_extractLsb' (by decide),
      BitVec.extractLsb'_append_extractLsb'_eq_extractLsb' (by decide)]
    exact BitVec.extractLsb'_eq_self
  exact congrArg some hslices

/-- R64: the values of the bytes, least significant first. -/
theorem linkBytes_toNat (w : Word) : (linkBytes w).map BitVec.toNat =
    [w.toNat % 256, w.toNat / 256 % 256, w.toNat / 65536 % 256, w.toNat / 16777216] := by
  have hw := w.isLt
  have htop : w.toNat / 16777216 % 256 = w.toNat / 16777216 := by omega
  simp [linkBytes, Nat.shiftRight_eq_div_pow, htop]

/-- Settles O6: the round trip and the values of the bytes. -/
theorem linkBytesRoundTrip : Obligations.LinkBytesRoundTrip := by
  unfold Obligations.LinkBytesRoundTrip
  exact fun w => ⟨wordOfLink_linkBytes w, linkBytes_toNat w⟩

end Sys2Proof

namespace Sys2Proof.Machine

/-! ### Which indices are mapped -/

/-- The keys of the index table, in the order of R61's rows. -/
theorem indexTable_keys : (singleIndices ++ bufferIndices).map (fun p => p.1.toNat) =
    List.range' 0x00 8 ++ List.range' 0x10 7 ++ List.range' 0x18 7 ++ List.range' 0x20 9 ++ List.range' 0x30 5 ++
      List.range' 0x40 10 ++ List.range' 0x50 10 ++ List.range' 0x60 10 := by decide

/-- The table names a register for exactly the indices in R61's ranges. -/
theorem regOfIndex_isSome_iff (idx : BitVec 8) : (regOfIndex idx).isSome = true ↔ MappedIndex idx := by
  have hkey : (regOfIndex idx).isSome = true ↔
      idx.toNat ∈ (singleIndices ++ bufferIndices).map (fun p => p.1.toNat) := by
    rw [regOfIndex, List.lookup_isSome_iff, List.mem_map]
    simp only [beq_iff_eq, ← BitVec.toNat_inj, @eq_comm _ idx.toNat]
  rw [hkey, indexTable_keys]
  simp only [List.mem_append, List.mem_range'_1]
  omega

/-- Whether an index has a value depends on the index alone (R63). -/
theorem readIndex_isSome_iff (idx : BitVec 8) (s : State) : (readIndex idx s).isSome = true ↔ MappedIndex idx := by
  rw [readIndex, Option.isSome_map, regOfIndex_isSome_iff]

theorem readIndex_eq_none_iff (idx : BitVec 8) (s : State) : readIndex idx s = none ↔ ¬ MappedIndex idx := by
  rw [← readIndex_isSome_iff idx s, Option.not_isSome_iff_eq_none]

/-- R63, R219: RDREG of an unmapped index leaves 0 in `RDATA` and records BAD_REG, in every run state. -/
theorem exec_rdreg_of_unmapped {idx : BitVec 8} (h : ¬ MappedIndex idx) (s : State) :
    exec (.rdreg idx) s = .next (recorded 4#3 { s with rdata := 0#32 }) := by
  rw [execRdreg_eq, (readIndex_eq_none_iff idx s).mpr h]

/-- R218: RDREG of a mapped index leaves the value read in `RDATA`. -/
theorem exec_rdreg_of_readIndex {idx : BitVec 8} {s : State} {v : Word} (h : readIndex idx s = some v) :
    exec (.rdreg idx) s = .next { s with rdata := v } := by
  rw [execRdreg_eq, h]

/-- Settles O18: the table covers R61's ranges and no other index. -/
theorem unmappedIndexIsBadReg : Obligations.UnmappedIndexIsBadReg := by
  unfold Obligations.UnmappedIndexIsBadReg
  intro s idx
  exact ⟨(readIndex_isSome_iff idx s).mpr,
    fun h => ⟨(readIndex_eq_none_iff idx s).mpr h, exec_rdreg_of_unmapped h s⟩⟩

/-! ### What a mapped index reads -/

/-- Every register is read at its own index (R61, R62). -/
theorem readIndex_indexOfReg (r : Reg) (s : State) : readIndex (indexOfReg r) s = some (regRead r s) := by
  rw [readIndex, regOfIndex_indexOfReg, Option.map_some]

/-- A 1-bit element reads as 0 or 1 (R62). -/
@[simp] theorem bitWord_toNat (b : Bool) : (bitWord b).toNat = b.toNat := by cases b <;> rfl

/-- The registers that are read zero-extended and are not slots, in the order of R61: all but STATUS, which is a
view, and `TEMP`, which is signed. -/
def unsignedRegs : List Reg :=
  [.now, .input .burner0, .input .burner1, .input .ovenPot, .input .ovenTemp, .cycStart, .cycPos,
    .cv .f0, .duty .b0, .prevDuty .b0, .relay .b0, .lastT .b0, .sum .f0, .cur .f0,
    .cv .f1, .duty .b1, .prevDuty .b1, .relay .b1, .lastT .b1, .sum .f1, .cur .f1,
    .cv .f2, .sp, .mode, .bake, .broil, .ovenLastT, .sum .f2, .cur .f2,
    .totDuty, .totW, .gridW, .battW, .pca]

/-- The index of a register beside the value it reads. -/
def readRow (s : State) (r : Reg) : BitVec 8 × Nat := (indexOfReg r, (regRead r s).toNat)

theorem readIndex_of_mem_rows {s : State} {regs : List Reg} {b : BitVec 8 × Nat} (h : b ∈ regs.map (readRow s)) :
    (readIndex b.1 s).map BitVec.toNat = some b.2 := by
  obtain ⟨r, -, rfl⟩ := List.mem_map.mp h
  simp only [readRow, readIndex_indexOfReg, Option.map_some]

/-- A slot of a filter reads its sample (R61's last three rows). -/
theorem readIndex_slot (f : FilterId) (k : Fin 10) (s : State) :
    (readIndex (indexOfReg (.buf f k)) s).map BitVec.toNat = some ((filterOf f s).buf[k.val]).toNat := by
  rw [readIndex_indexOfReg, Option.map_some]
  exact congrArg some (BitVec.toNat_setWidth_of_le (by decide : 12 ≤ 32))

/-- `TEMP` reads sign-extended, so the word read has the temperature's signed value (R62). -/
theorem readIndex_temp (s : State) : (readIndex 0x21#8 s).map BitVec.toInt = some s.oven.temp.toInt := by
  have hread : readIndex 0x21#8 s = some (s.oven.temp.signExtend 32) := readIndex_indexOfReg .temp s
  rw [hread, Option.map_some, BitVec.toInt_signExtend_of_le (by decide)]

/-- Settles O17: the table's rows are the registers' own, and zero-extension keeps each element's value. -/
theorem registerIndexTable : Obligations.RegisterIndexTable := by
  unfold Obligations.RegisterIndexTable
  intro s
  refine ⟨fun b hb => readIndex_of_mem_rows (regs := unsignedRegs) ?_, readIndex_indexOfReg .status s,
    readIndex_temp s, fun k => ⟨readIndex_slot .f0 k s, readIndex_slot .f1 k s, readIndex_slot .f2 k s⟩⟩
  have hmode : (modeBits s.oven.mode).toNat = match s.oven.mode with | .off => 0 | .bake => 1 | .broil => 2 := by
    cases s.oven.mode <;> rfl
  simp (disch := decide) only [unsignedRegs, readRow, List.map_cons, List.map_nil, indexOfReg, regRead, readInput,
    filterOf, burnerOf, bitWord_toNat, BitVec.toNat_setWidth_of_le, hmode]
  exact hb

/-! ### Reads and latch writes -/

/-- What an index reads does not depend on `RDATA`: it is an output port and has no index (R61). -/
theorem readIndex_of_rdata (idx : BitVec 8) (s : State) (v : Word) :
    readIndex idx { s with rdata := v } = readIndex idx s := by
  have hreg : ∀ r, regRead r { s with rdata := v } = regRead r s := fun r => by
    cases r with
    | input sel => cases sel <;> rfl
    | cv f | sum f | cur f | buf f k => cases f <;> rfl
    | duty c | prevDuty c | relay c | lastT c => cases c <;> rfl
    | _ => rfl
  simp only [readIndex, hreg]

/-- R68 for RDREG: only `RDATA` changes, plus the error record when the index is unmapped, and a second read finds
nothing left to change. -/
theorem rdreg_has_no_side_effect (s : State) (idx : BitVec 8) :
    ∃ t, exec (.rdreg idx) s = .next t ∧ { t with rdata := s.rdata, err := s.err, errCode := s.errCode } = s ∧
      ((readIndex idx s).isSome = true → t.err = s.err ∧ t.errCode = s.errCode) ∧ exec (.rdreg idx) t = .next t := by
  cases hread : readIndex idx s with
  | some v =>
    have hagain : readIndex idx { s with rdata := v } = some v := by rw [readIndex_of_rdata, hread]
    exact ⟨_, exec_rdreg_of_readIndex hread, rfl, fun _ => ⟨rfl, rfl⟩, exec_rdreg_of_readIndex hagain⟩
  | none =>
    have hunmapped := (readIndex_eq_none_iff idx s).mp hread
    exact ⟨_, exec_rdreg_of_unmapped hunmapped s, rfl, nofun, exec_rdreg_of_unmapped hunmapped _⟩

/-- A gated write that makes its own change once makes it no second time: in HALTED it does nothing, and outside
the state it leaves is outside HALTED too (R68, R210). -/
theorem gated_write_twice {f : State → State} {s t : State} (hhalt : (f s).halt = s.halt) (hwrite : f (f s) = f s)
    (h : unlessHalted s (fun s => .next (f s)) = .next t) : unlessHalted t (fun s => .next (f s)) = .next t := by
  rcases unlessHalted_cases h with ⟨hs, rfl⟩ | ⟨hs, hf⟩
  · exact h
  · obtain rfl := Host.Outcome.next.inj hf
    rw [unlessHalted_of_not_halted (hhalt.trans hs), hwrite]

theorem writeInput_writeInput_same (sel : InputSel) (v : Sample) (s : State) :
    writeInput sel v (writeInput sel v s) = writeInput sel v s := by cases sel <;> rfl

theorem withLowHalf_withLowHalf (now : Time config) (val : BitVec 16) :
    withLowHalf (withLowHalf now val) val = withLowHalf now val := by
  have hval := val.isLt
  apply BitVec.eq_of_toNat_eq
  simp only [withLowHalf_toNat]
  omega

theorem withHighHalf_withHighHalf (now : Time config) (val : BitVec 16) :
    withHighHalf (withHighHalf now val) val = withHighHalf now val := by
  apply BitVec.eq_of_toNat_eq
  simp only [withHighHalf_toNat]
  omega

/-- Settles O22: RDREG by whether the index is mapped, each latch write by the idempotence of its write. -/
theorem readsHaveNoSideEffects : Obligations.ReadsHaveNoSideEffects := by
  unfold Obligations.ReadsHaveNoSideEffects
  refine ⟨rdreg_has_no_side_effect, fun s t sel v h => ?_, fun s t v h => ?_, fun s t v h => ?_⟩
  · exact gated_write_twice (writeInput_halt sel _ s) (writeInput_writeInput_same sel _ s) h
  · exact gated_write_twice (f := fun s => { s with now := withLowHalf s.now v }) rfl
      (congrArg (fun now => { s with now := now }) (withLowHalf_withLowHalf s.now v)) h
  · exact gated_write_twice (f := fun s => { s with now := withHighHalf s.now v }) rfl
      (congrArg (fun now => { s with now := now }) (withHighHalf_withHighHalf s.now v)) h

/-! ### Every command runs to completion -/

/-- What a tick leaves alone: the latches, the run state, the error record, the read port and the host's events
(R216, R287). -/
theorem tickBody_frame {s t : State} (h : tickBody s = some t) :
    t.now = s.now ∧ (∀ sel, readInput sel t = readInput sel s) ∧ t.run = s.run ∧ t.halt = s.halt ∧ t.err = s.err ∧
      t.errCode = s.errCode ∧ t.rdata = s.rdata ∧ t.pending = s.pending := by
  obtain ⟨b0, b1, o, -, -, -, rfl⟩ := tickBody_eq_some.mp h
  exact ⟨rfl, fun sel => by cases sel <;> rfl, rfl, rfl, rfl, rfl, rfl, rfl⟩

/-- Settles O32: the tick's body completes on legal cursors, and has its frame. -/
theorem tickRunsToCompletion : Obligations.TickRunsToCompletion := by
  unfold Obligations.TickRunsToCompletion
  intro s hrunning hcursors
  obtain ⟨t, htick⟩ := tickBody_isSome hcursors
  have hexec : exec .tick s = .next t := by rw [execTick_of_running hrunning, htick]
  exact ⟨t, hexec, tickBody_frame htick⟩

/-- The HALTED gate completes when the command behind it does (R210). -/
theorem unlessHalted_completes {s : State} {act : State → Result} (h : ∃ t, act s = .next t) :
    ∃ t, unlessHalted s act = .next t := by
  cases hs : s.halt with
  | true => exact ⟨s, unlessHalted_of_halted hs act⟩
  | false => rwa [unlessHalted_of_not_halted hs]

/-- A gated command that always answers completes. -/
theorem gated_update_completes (f : State → State) (s : State) :
    ∃ t, unlessHalted s (fun s => .next (f s)) = .next t := unlessHalted_completes ⟨f s, rfl⟩

/-- TICK outside HALTED completes when the write cursors name slots (R67, R215). -/
theorem runTick_completes {s : State} (h : CursorsLegal s) : ∃ t, runTick s = .next t := by
  obtain ⟨u, hu⟩ := tickBody_isSome h
  cases hrun : s.run with
  | true => exact ⟨u, by simp only [runTick, hrun, hu, if_true]⟩
  | false => exact ⟨_, by simp only [runTick, hrun]; rfl⟩

/-- R67: every command runs to completion when the write cursors name slots. -/
theorem exec_completes (i : Instr) {s : State} (h : CursorsLegal s) : ∃ t, exec i s = .next t := by
  cases i with
  | nop => exact ⟨_, exec_nop_eq s⟩
  | setin sel val => exact gated_update_completes _ s
  | settl val => exact gated_update_completes (fun s => { s with now := withLowHalf s.now val }) s
  | setth val => exact gated_update_completes (fun s => { s with now := withHighHalf s.now val }) s
  | tick => exact unlessHalted_completes (runTick_completes h)
  | rdreg idx =>
    obtain ⟨t, ht, -⟩ := rdreg_has_no_side_effect s idx
    exact ⟨t, ht⟩
  | start sinkOk =>
    rw [exec_start_eq]
    split_ifs <;> exact ⟨_, rfl⟩
  | clrerr => exact gated_update_completes _ s
  | rst => exact ⟨_, rfl⟩

/-- R67, R86: whatever event is next, a step completes when the write cursors name slots. -/
theorem step_completes {s : State} (h : CursorsLegal s) : ∃ t, step s = .next t := by
  cases hpending : s.pending with
  | nil => exact ⟨s, by simp only [step, acceptEvent, hpending]⟩
  | cons e rest =>
    have haccept := acceptEvent_of_pending hpending
    cases e with
    | resetN => exact ⟨hardwareReset { s with pending := rest }, by simp only [step, haccept]⟩
    | command w =>
      simp only [step, haccept]
      cases decode w with
      | cmd i => exact exec_completes i h
      | illegal => exact gated_update_completes _ _
      | reserved op =>
        simp only [rejectReserved]
        split
        · exact ⟨_, rfl⟩
        · exact gated_update_completes _ _

/-- In a legal state the write cursors name slots (R26). -/
theorem Legal.cursorsLegal {s : State} (h : Legal s) : CursorsLegal s := by
  obtain ⟨⟨⟨hcur0, -⟩, -⟩, ⟨⟨hcur1, -⟩, -⟩, ⟨⟨hcur2, -⟩, -⟩, -⟩ := h
  exact ⟨hcur0, hcur1, hcur2⟩

/-- A run goes on from the state that its first step answers. -/
theorem run_succ_of_step {M : Host.Core} {s t : M.State} (k : Nat) (h : M.step s = .next t) :
    M.run (k + 1) s = M.run k t := by
  rw [Host.Core.run, h]

/-- Settles O54, by induction on the number of steps: each completes on legal cursors, and keeps the state legal. -/
theorem legalRunsNeverStop : Obligations.LegalRunsNeverStop := by
  unfold Obligations.LegalRunsNeverStop
  intro k
  induction k with
  | zero => exact fun s hs => ⟨s, rfl, hs⟩
  | succ k ih =>
    intro s hs
    obtain ⟨t, hstep⟩ := step_completes hs.cursorsLegal
    rw [run_succ_of_step (M := core) k hstep]
    exact ih t (everyStepKeepsLegality s t hs hstep)

end Sys2Proof.Machine
end

section
/-! Proofs of the statements on the encoding (30_encoding.md): the decoder against the opcode map (R82, R85, R86), the
encoder as its inverse (R83), the assembler (R88, R89), and what a step does with a word (R210, R253). -/

namespace Sys2Proof

/-! ### The operand fields -/

/-- R83: `SEL` is the number of the latch it selects. -/
@[simp] theorem number_selOf (sel : BitVec 2) : (selOf sel).number = sel.toNat := by
  revert sel
  decide

@[simp] theorem selOf_number (sel : InputSel) : selOf (BitVec.ofNat 2 sel.number) = sel := by
  cases sel <;> rfl

/-- A field that starts at bit 0 reads back what was placed there, when the rest of the word leaves it 0. -/
theorem lowField_or {n : Nat} (hn : n ≤ 32) {p : Word} (hp : p.extractLsb' 0 n = 0#n) (v : BitVec n) :
    (p ||| v.setWidth 32).extractLsb' 0 n = v := by
  rw [BitVec.extractLsb'_or, hp, BitVec.zero_or, BitVec.extractLsb'_setWidth_of_le (by omega),
    BitVec.extractLsb'_eq_self]

/-- A field above bit `n` does not see what was placed below bit `n`. -/
theorem highField_or {n start len : Nat} (hn : n ≤ start) (p : Word) (v : BitVec n) :
    (p ||| v.setWidth 32).extractLsb' start len = p.extractLsb' start len := by
  apply BitVec.eq_of_getLsbD_eq
  intro i hi
  have hv : v.getLsbD (start + i) = false := BitVec.getLsbD_of_ge v _ (by omega)
  simp [hv]

/-- The word of SETTL: the row's match value with `IMM16` filled in (R82, R83). -/
theorem encode_settl (val : BitVec 16) : encode (.settl val) = 0x02000000#32 ||| val.setWidth 32 :=
  congrArg (fun bits => 0x02000000#32 ||| bits) (Laws.RowOfWord.ofNat_toNat32 val)

/-- The word of SETTH (R82, R83). -/
theorem encode_setth (val : BitVec 16) : encode (.setth val) = 0x03000000#32 ||| val.setWidth 32 :=
  congrArg (fun bits => 0x03000000#32 ||| bits) (Laws.RowOfWord.ofNat_toNat32 val)

/-- The word of RDREG (R82, R83). -/
theorem encode_rdreg (idx : BitVec 8) : encode (.rdreg idx) = 0x20000000#32 ||| idx.setWidth 32 :=
  congrArg (fun bits => 0x20000000#32 ||| bits) (Laws.RowOfWord.ofNat_toNat32 idx)

/-! ### Decoding what was encoded -/

/-- R82: the word of a command matches the row of its opcode. -/
theorem encode_matches_row (i : Instr) : encode i &&& i.opcode.mask = i.opcode.pattern := by
  have hrow : Laws.RowOfWord.Statement i := by
    cases i with
    | nop => exact Laws.RowOfWord.nop
    | setin sel val => exact Laws.RowOfWord.setin sel val
    | settl val => exact Laws.RowOfWord.settl val
    | setth val => exact Laws.RowOfWord.setth val
    | tick => exact Laws.RowOfWord.tick
    | rdreg idx => exact Laws.RowOfWord.rdreg idx
    | start sinkOk => exact Laws.RowOfWord.start sinkOk
    | clrerr => exact Laws.RowOfWord.clrerr
    | rst => exact Laws.RowOfWord.rst
  exact hrow.2

/-- R83: the `SEL` and `IMM16` fields of the word of SETIN are its operands. -/
theorem operands_encode_setin (sel : InputSel) (val : BitVec 16) :
    Opcode.operands .setin (encode (.setin sel val)) = .setin sel val := by
  have hsel : (encode (.setin sel val)).extractLsb' 16 2 = BitVec.ofNat 2 sel.number := by
    rw [Laws.RowOfWord.setin_bits, highField_or le_rfl]
    cases sel <;> rfl
  have hval : (encode (.setin sel val)).extractLsb' 0 16 = val := by
    rw [Laws.RowOfWord.setin_bits]
    exact lowField_or (by omega) (by cases sel <;> rfl) val
  simp only [Opcode.operands, immOf, hsel, hval, selOf_number]

/-- R83: the fields of the word of a command are its operands. -/
theorem operands_encode (i : Instr) : i.opcode.operands (encode i) = i := by
  cases i with
  | setin sel val => exact operands_encode_setin sel val
  | settl val =>
    rw [encode_settl]
    exact congrArg Instr.settl (lowField_or (by omega) rfl val)
  | setth val =>
    rw [encode_setth]
    exact congrArg Instr.setth (lowField_or (by omega) rfl val)
  | rdreg idx =>
    rw [encode_rdreg]
    exact congrArg Instr.rdreg (lowField_or (by omega) rfl idx)
  | start sinkOk => cases sinkOk <;> rfl
  | nop | tick | clrerr | rst => rfl

/-- R82, R83: decoding is a left inverse of encoding. -/
theorem decode_encode (i : Instr) : decode (encode i) = .cmd i := by
  rw [decode_of_match (encode_matches_row i), operands_encode]

/-- Settles O1: the word matches its opcode's row, and the row's fields are the operands. -/
theorem decodeOfEncodeIsTheCommand : Obligations.DecodeOfEncodeIsTheCommand := by
  unfold Obligations.DecodeOfEncodeIsTheCommand
  exact decode_encode

/-! ### Encoding what was decoded -/

@[simp] theorem opcode_operands (op : Opcode) (w : Word) : (op.operands w).opcode = op := by
  cases op <;> rfl

/-- The low `n` bits of a word, as a number. -/
theorem ofNat_mod_two_pow (w : Word) (n : Nat) (hn : n ≤ 32) :
    BitVec.ofNat 32 (w.toNat % 2 ^ n) = w &&& BitVec.ofNat 32 (2 ^ n - 1) := by
  apply BitVec.eq_of_toNat_eq
  have hpow : 2 ^ n ≤ 2 ^ 32 := Nat.pow_le_pow_right (by omega) hn
  have hpos : 0 < 2 ^ n := Nat.two_pow_pos n
  have hlow := Nat.mod_lt w.toNat hpos
  rw [BitVec.toNat_and, BitVec.toNat_ofNat, BitVec.toNat_ofNat, Nat.mod_eq_of_lt (by omega),
    Nat.mod_eq_of_lt (a := 2 ^ n - 1) (by omega), Nat.and_two_pow_sub_one_eq_mod]

/-- R83, R85: the operand fields are exactly the bits of a word that the mask of its row does not cover. -/
theorem operandBits_operands (op : Opcode) (w : Word) : (op.operands w).operandBits = w &&& ~~~op.mask := by
  have hlow (n : Nat) (hn : n ≤ 32) :
      BitVec.ofNat 32 (w.extractLsb' 0 n).toNat = w &&& BitVec.ofNat 32 (2 ^ n - 1) := by
    rw [← ofNat_mod_two_pow w n hn, BitVec.extractLsb'_toNat, Nat.shiftRight_zero]
  cases op with
  | setin =>
    have hfields : (w.extractLsb' 16 2).toNat * 65536 + (w.extractLsb' 0 16).toNat = w.toNat % 2 ^ 18 := by
      simp only [BitVec.extractLsb'_toNat, Nat.shiftRight_eq_div_pow]
      omega
    simp only [Opcode.operands, Instr.operandBits, number_selOf, immOf, hfields]
    exact ofNat_mod_two_pow w 18 (by omega)
  | settl => exact hlow 16 (by omega)
  | setth => exact hlow 16 (by omega)
  | rdreg => exact hlow 8 (by omega)
  | start =>
    show (if w.getLsbD 0 = true then 1#32 else 0#32) = w &&& 1#32
    rw [BitVec.and_one_eq_setWidth_ofBool_getLsbD]
    cases w.getLsbD 0 <;> rfl
  | nop | tick | clrerr | rst => exact BitVec.and_zero.symm

/-- R82, R85: a word that matches a row is the row's match value with the operand fields filled in. -/
theorem encode_operands_of_match {w : Word} {op : Opcode} (h : w &&& op.mask = op.pattern) :
    encode (op.operands w) = w := by
  calc
    encode (op.operands w) = (w &&& op.mask) ||| (w &&& ~~~op.mask) := by
      rw [encode, opcode_operands, operandBits_operands, h]
    _ = w &&& (op.mask ||| ~~~op.mask) := BitVec.and_or_distrib_left.symm
    _ = w := by rw [BitVec.or_not_self, BitVec.and_allOnes]

/-- Settles O2: a word that decodes to a command matches a row, and its other bits are the row's operands. -/
theorem encodeOfDecodeIsTheWord : Obligations.EncodeOfDecodeIsTheWord := by
  unfold Obligations.EncodeOfDecodeIsTheWord
  intro w i hdecode
  obtain ⟨op, hmatch, rfl⟩ := match_of_decode hdecode
  exact encode_operands_of_match hmatch

/-! ### The opcode map -/

/-- R82: a word that is a command matches one of the nine rows. -/
theorem row_of_command {w : Word} {i : Instr} (h : decode w = .cmd i) :
    w &&& 0xFFFFFFFF#32 ∈ [0x00000000#32, 0x10000000#32, 0x31000000#32, 0xFF000000#32] ∨
    w &&& 0xFFFC0000#32 = 0x01000000#32 ∨ w &&& 0xFFFF0000#32 ∈ [0x02000000#32, 0x03000000#32] ∨
    w &&& 0xFFFFFF00#32 = 0x20000000#32 ∨ w &&& 0xFFFFFFFE#32 = 0x30000000#32 := by
  obtain ⟨op, hmatch, -⟩ := match_of_decode h
  cases op with
  | nop | tick | clrerr | rst =>
    left
    rw [show w &&& 0xFFFFFFFF#32 = _ from hmatch]
    decide
  | setin => exact .inr (.inl hmatch)
  | settl | setth =>
    right; right; left
    rw [show w &&& 0xFFFF0000#32 = _ from hmatch]
    decide
  | rdreg => exact .inr (.inr (.inr (.inl hmatch)))
  | start => exact .inr (.inr (.inr (.inr hmatch)))

/-- Settles O3: each row by `decode_of_match` at its opcode, and the converse by the row a command matches. -/
theorem decoderFollowsOpcodeMap : Obligations.DecoderFollowsOpcodeMap := by
  unfold Obligations.DecoderFollowsOpcodeMap
  intro w
  refine ⟨decode_of_match (op := .nop), fun h => ?_, decode_of_match (op := .settl), decode_of_match (op := .setth),
    decode_of_match (op := .tick), decode_of_match (op := .rdreg), decode_of_match (op := .start),
    decode_of_match (op := .clrerr), decode_of_match (op := .rst), fun ⟨i, hdecode⟩ => row_of_command hdecode⟩
  exact ⟨selOf (w.extractLsb' 16 2), number_selOf _, decode_of_match (op := .setin) h⟩

/-! ### Words that are no command -/

/-- R85: the illegal bytes are those outside the OPC column. -/
theorem ofByte_eq_none_iff (b : Byte) : Opcode.ofByte b = none ↔
    b ∉ [0x00#8, 0x01#8, 0x02#8, 0x03#8, 0x10#8, 0x20#8, 0x30#8, 0x31#8, 0xFF#8] := by
  show _ ↔ b ∉ [Opcode.nop, .setin, .settl, .setth, .tick, .rdreg, .start, .clrerr, .rst].map Opcode.byte
  simp only [Opcode.ofByte, List.find?_eq_none, List.mem_map, beq_iff_eq, not_exists, not_and]

/-- R86: only the opcode byte makes a word illegal. -/
theorem decode_eq_illegal_iff (w : Word) : decode w = .illegal ↔ Opcode.ofByte (opcByte w) = none := by
  unfold decode
  cases Opcode.ofByte (opcByte w) with
  | none => simp
  | some op =>
    simp only [reduceCtorEq, iff_false]
    split <;> simp

/-- R85: a reserved word carries its opcode's byte and differs from its row under the mask. -/
theorem decode_eq_reserved_iff (w : Word) (op : Opcode) :
    decode w = .reserved op ↔ opcByte w = op.byte ∧ w &&& op.mask ≠ op.pattern := by
  rw [← ofByte_eq_some_iff]
  unfold decode
  cases Opcode.ofByte (opcByte w) with
  | none => simp
  | some row =>
    by_cases hmatch : w &&& row.mask = row.pattern
    · simp only [hmatch, if_true, reduceCtorEq, false_iff, Option.some.injEq]
      rintro ⟨rfl, hdiffers⟩
      exact hdiffers hmatch
    · simp only [hmatch, if_false, Decoded.reserved.injEq, Option.some.injEq]
      exact ⟨fun h => ⟨h, h ▸ hmatch⟩, fun h => h.1⟩

/-- Settles O4: illegal by the byte alone, reserved by the byte and the mask. -/
theorem illegalAndReservedWords : Obligations.IllegalAndReservedWords := by
  unfold Obligations.IllegalAndReservedWords
  exact fun w => ⟨(decode_eq_illegal_iff w).trans (ofByte_eq_none_iff _), decode_eq_reserved_iff w⟩

/-- Settles O5: each command decodes from its own word by `decode_encode`; the other three words are closed facts. -/
theorem workedEncodings : Obligations.WorkedEncodings := by
  unfold Obligations.WorkedEncodings
  exact ⟨rfl, decode_encode (.setin .burner1 4095#16), rfl, decode_encode (.setin .ovenPot 2300#16),
    rfl, decode_encode (.settl 1000#16), rfl, decode_encode (.rdreg 0x31#8), rfl, decode_encode (.start true),
    by decide, by decide, by decide⟩

end Sys2Proof

namespace Sys2Proof.Machine

/-! ### The assembler -/

/-- R88: an accepted statement other than the directive gives the words of its commands. -/
theorem assemble_eq {a : AsmStmt} (hdirective : ∀ u, a ≠ .word u) :
    assemble a = if a.wellFormed = true then some ((commandsOf a).map encode) else none := by
  cases a with
  | word u => exact absurd rfl (hdirective u)
  | _ => rfl

/-- R88: a statement assembles to the words of its commands when its operands are in range, and is refused else. -/
theorem assemble_of_range {a : AsmStmt} {inRange : Prop} [Decidable inRange] {ws : List Word}
    (hdirective : ∀ u, a ≠ .word u) (hrange : a.wellFormed = true ↔ inRange)
    (hwords : inRange → (commandsOf a).map encode = ws) : assemble a = if inRange then some ws else none := by
  rw [assemble_eq hdirective]
  by_cases h : inRange
  · rw [if_pos (hrange.mpr h), if_pos h, hwords h]
  · rw [if_neg (mt hrange.mp h), if_neg h]

/-- An operand in the range of its field is placed in the word as it is written. -/
theorem setWidth_ofNat_of_lt {n v : Nat} (hv : v < 2 ^ n) : (BitVec.ofNat n v).setWidth 32 = BitVec.ofNat 32 v := by
  rw [← Laws.RowOfWord.ofNat_toNat32, BitVec.toNat_ofNat, Nat.mod_eq_of_lt hv]

theorem encode_settl_ofNat {val : Nat} (hval : val < 65536) :
    encode (.settl (BitVec.ofNat 16 val)) = 0x02000000#32 ||| BitVec.ofNat 32 val := by
  rw [encode_settl, setWidth_ofNat_of_lt hval]

theorem encode_setth_ofNat {val : Nat} (hval : val < 65536) :
    encode (.setth (BitVec.ofNat 16 val)) = 0x03000000#32 ||| BitVec.ofNat 32 val := by
  rw [encode_setth, setWidth_ofNat_of_lt hval]

theorem encode_rdreg_ofNat {idx : Nat} (hidx : idx < 256) :
    encode (.rdreg (BitVec.ofNat 8 idx)) = 0x20000000#32 ||| BitVec.ofNat 32 idx := by
  rw [encode_rdreg, setWidth_ofNat_of_lt hidx]

theorem encode_setinOf {ch val : Nat} (hch : ch < 4) (hval : val < 65536) :
    encode (setinOf ch val) = 0x01000000#32 ||| BitVec.ofNat 32 ch <<< 16 ||| BitVec.ofNat 32 val := by
  rw [setinOf, Laws.RowOfWord.setin_bits, setWidth_ofNat_of_lt hval]
  congr 1
  interval_cases ch <;> rfl

theorem encode_start_ofNat {ok : Nat} (hok : ok < 2) :
    encode (.start (decide (ok = 1))) = 0x30000000#32 ||| BitVec.ofNat 32 ok := by
  interval_cases ok <;> rfl

/-- R89: the two words of `settime`, the high half first. -/
theorem encode_settimeOf {t : Nat} (ht : t < 4294967296) : (settimeOf t).map encode =
    [0x03000000#32 ||| BitVec.ofNat 32 (t / 65536), 0x02000000#32 ||| BitVec.ofNat 32 (t % 65536)] := by
  rw [settimeOf, List.map_cons, List.map_singleton, encode_setth_ofNat (by omega), encode_settl_ofNat (by omega)]

/-- R89: the four words of `sample`, one for each latch. -/
theorem encode_sample {v0 v1 vp vt : Nat} (h : v0 < 65536 ∧ v1 < 65536 ∧ vp < 65536 ∧ vt < 65536) :
    (commandsOf (.sample v0 v1 vp vt)).map encode =
      [0x01000000#32 ||| BitVec.ofNat 32 v0, 0x01010000#32 ||| BitVec.ofNat 32 v1,
        0x01020000#32 ||| BitVec.ofNat 32 vp, 0x01030000#32 ||| BitVec.ofNat 32 vt] := by
  obtain ⟨h0, h1, hp, ht⟩ := h
  simp only [commandsOf, List.map_cons, List.map_nil]
  rw [encode_setinOf (by omega) h0, encode_setinOf (by omega) h1, encode_setinOf (by omega) hp,
    encode_setinOf (by omega) ht]
  rfl

/-- R88: every word of an accepted statement other than the directive is a command. -/
theorem decode_of_mem_assemble {a : AsmStmt} {ws : List Word} (hdirective : ∀ u, a ≠ .word u)
    (hassemble : assemble a = some ws) {w : Word} (hw : w ∈ ws) : ∃ i, decode w = .cmd i := by
  rw [assemble_eq hdirective] at hassemble
  split at hassemble
  · cases hassemble
    obtain ⟨i, -, rfl⟩ := List.mem_map.mp hw
    exact ⟨i, decode_encode i⟩
  · cases hassemble

/-- Settles O7, form by form: the range check of the statement, and the words of its commands. -/
theorem assembledWordsAreCommands : Obligations.AssembledWordsAreCommands := by
  unfold Obligations.AssembledWordsAreCommands
  refine ⟨rfl, fun ch val => ?setin, fun val => ?settl, fun val => ?setth, rfl, fun idx => ?rdreg, fun ok => ?start,
    rfl, rfl, fun t => ?settime, fun t => ?tickat, fun v0 v1 vp vt => ?sample, fun u => ?word,
    fun a ws hdirective hassemble w hw => decode_of_mem_assemble hdirective hassemble hw⟩
  case setin =>
    exact assemble_of_range (by simp) (by simp [AsmStmt.wellFormed])
      fun ⟨hch, hval⟩ => congrArg (fun w => [w]) (encode_setinOf hch hval)
  case settl =>
    exact assemble_of_range (by simp) (by simp [AsmStmt.wellFormed])
      fun hval => congrArg (fun w => [w]) (encode_settl_ofNat hval)
  case setth =>
    exact assemble_of_range (by simp) (by simp [AsmStmt.wellFormed])
      fun hval => congrArg (fun w => [w]) (encode_setth_ofNat hval)
  case rdreg =>
    exact assemble_of_range (by simp) (by simp [AsmStmt.wellFormed])
      fun hidx => congrArg (fun w => [w]) (encode_rdreg_ofNat hidx)
  case start =>
    exact assemble_of_range (by simp) (by simp [AsmStmt.wellFormed])
      fun hok => congrArg (fun w => [w]) (encode_start_ofNat hok)
  case settime => exact assemble_of_range (by simp) (by simp [AsmStmt.wellFormed]) encode_settimeOf
  case tickat =>
    exact assemble_of_range (by simp) (by simp [AsmStmt.wellFormed])
      fun ht => congrArg (fun ws => ws ++ [0x10000000#32]) (encode_settimeOf ht)
  case sample => exact assemble_of_range (by simp) (by simp [AsmStmt.wellFormed, and_assoc]) encode_sample
  case word => simp [assemble, AsmStmt.wellFormed]

/-! ### What a step does with the word of a command -/

/-- R82, R210: a step runs the command whose word is next on the port. -/
theorem step_encode {s : State} {i : Instr} {rest : List HostEvent} (h : s.pending = .command (encode i) :: rest) :
    step s = exec i { s with pending := rest } :=
  stepRunsDecodedCommand s (encode i) rest i h (decode_encode i)

/-- SETTH then SETTL load the whole clock (R213, R214). -/
theorem withHalves_eq_ofNat (now : Time config) {t : Nat} (ht : t < 4294967296) :
    withLowHalf (withHighHalf now (BitVec.ofNat 16 (t / 65536))) (BitVec.ofNat 16 (t % 65536)) = BitVec.ofNat _ t := by
  apply BitVec.eq_of_toNat_eq
  have hclock : (BitVec.ofNat config.clockBits t).toNat = t := Nat.mod_eq_of_lt ht
  rw [withLowHalf_toNat, withHighHalf_toNat, hclock, BitVec.toNat_ofNat, BitVec.toNat_ofNat]
  omega

/-- Outside HALTED the words of SETTH and SETTL, presented one after the other, load both halves of the clock. -/
theorem run_setth_settl {s : State} (hhalt : s.halt = false) (hi lo : BitVec 16) :
    Host.Core.run core 2 { s with pending := [.command (encode (.setth hi)), .command (encode (.settl lo))] } =
      .next { s with now := withLowHalf (withHighHalf s.now hi) lo, pending := [] } := by
  have hhigh : step { s with pending := [.command (encode (.setth hi)), .command (encode (.settl lo))] } =
      .next { s with now := withHighHalf s.now hi, pending := [.command (encode (.settl lo))] } := by
    rw [step_encode rfl, exec_setth_eq, if_neg (by simp [hhalt])]
  have hlow : step { s with now := withHighHalf s.now hi, pending := [.command (encode (.settl lo))] } =
      .next { s with now := withLowHalf (withHighHalf s.now hi) lo, pending := [] } := by
    rw [step_encode rfl, exec_settl_eq, if_neg (by simp [hhalt])]
  calc
    Host.Core.run core 2 { s with pending := [.command (encode (.setth hi)), .command (encode (.settl lo))] }
    _ = Host.Core.run core 1 _ := run_succ_of_step (M := core) 1 hhigh
    _ = Host.Core.run core 0 _ := run_succ_of_step (M := core) 0 hlow

/-- Settles O8: the words are those of SETTH and SETTL, and the halves they load make up the whole clock. -/
theorem settimeWritesWholeClock : Obligations.SettimeWritesWholeClock := by
  unfold Obligations.SettimeWritesWholeClock
  intro s t ht hhalt hpending
  have hrun := run_setth_settl hhalt (BitVec.ofNat 16 (t / 65536)) (BitVec.ofNat 16 (t % 65536))
  rw [withHalves_eq_ofNat s.now ht] at hrun
  have haccepted : (AsmStmt.settime t).wellFormed = true := by simpa [AsmStmt.wellFormed] using ht
  have hwords : assemble (.settime t) = some ((settimeOf t).map encode) := by
    rw [assemble_eq (by simp), if_pos haccepted]
    rfl
  exact ⟨_, hwords, hrun.trans (by rw [hpending])⟩

/-! ### What a step does with any word -/

/-- A command leaves what the host still presents (assumption 1). -/
theorem CommandEffect.pending {i : Instr} {s t : State} (h : CommandEffect s i t) : t.pending = s.pending := by
  cases h with
  | ticks hrun htick =>
    obtain ⟨-, -, -, -, -, -, -, hpending⟩ := tickBody_frame htick
    exact hpending
  | _ => rfl

/-- A step consumes the event at the head of the port and no other (assumption 1). -/
theorem step_pending {s t : State} (h : step s = .next t) : t.pending = s.pending.tail := by
  rcases step_cases h with ⟨hport, rfl⟩ | ⟨rest, hport, rfl⟩ | ⟨w, rest, i, hport, -, hexec⟩ |
    ⟨w, rest, hport, hrejected, -⟩
  · rw [hport]
    rfl
  · rw [hport]
    rfl
  · rw [hport]
    exact (effect_of_exec hexec).pending
  · rw [hport]
    rcases hrejected with rfl | ⟨code, -, rfl⟩ <;> rfl

/-- Settles O11: a step completes on legal cursors, and consumes one event. -/
theorem everyWordHasAnOutcome : Obligations.EveryWordHasAnOutcome := by
  unfold Obligations.EveryWordHasAnOutcome
  intro s w rest hport hcursors
  obtain ⟨t, hstep⟩ := step_completes hcursors
  have hpending : t.pending = rest := by rw [step_pending hstep, hport, List.tail_cons]
  exact ⟨t, hstep, hpending⟩

/-- R85, R210: outside HALTED an illegal word records ILLEGAL_OPCODE. -/
theorem rejectIllegal_of_not_halted {s : State} (h : s.halt = false) :
    rejectIllegal s = .next (recorded 1#3 s) := by
  rw [rejectIllegal, unlessHalted_of_not_halted h, raiseError_eq_recorded]
  rfl

/-- Settles O12: the port hands the illegal word to the dispatch, which records its code. -/
theorem illegalWordRecordsCodeOne : Obligations.IllegalWordRecordsCodeOne := by
  unfold Obligations.IllegalWordRecordsCodeOne
  intro s w rest hport hhalt hdecode
  have hstep : step s = rejectIllegal { s with pending := rest } := by
    simp only [step, acceptEvent_of_pending hport, hdecode]
  exact hstep.trans (rejectIllegal_of_not_halted hhalt)

/-- R210: the two opcodes that HALTED executes, by their bytes. -/
theorem actsInHalted_iff (op : Opcode) : actsInHalted op = true ↔ op.byte = 0x20#8 ∨ op.byte = 0xFF#8 := by
  cases op <;> decide

/-- R85, R210: a reserved word records RESERVED_NONZERO outside HALTED, and in HALTED for RDREG and RST
(assumption 11). -/
theorem rejectReserved_of_acts {s : State} {op : Opcode} (h : s.halt = false ∨ actsInHalted op = true) :
    rejectReserved op s = .next (recorded 2#3 s) := by
  have hraise : raiseError .reservedNonzero s = recorded 2#3 s := raiseError_eq_recorded _ _
  unfold rejectReserved
  split
  · rw [hraise]
  · next hacts => rw [unlessHalted_of_not_halted (h.resolve_right hacts), hraise]

/-- Settles O13: a reserved word carries its opcode's byte, so the dispatch rejects it with its code. -/
theorem reservedWordRecordsCodeTwo : Obligations.ReservedWordRecordsCodeTwo := by
  unfold Obligations.ReservedWordRecordsCodeTwo
  intro s w rest op hport hacts hdecode
  have hbyte : opcByte w = op.byte := ((decode_eq_reserved_iff w op).mp hdecode).1
  have hstep : step s = rejectReserved op { s with pending := rest } := by
    simp only [step, acceptEvent_of_pending hport, hdecode]
  rw [hbyte, ← actsInHalted_iff] at hacts
  exact hstep.trans (rejectReserved_of_acts hacts)

end Sys2Proof.Machine
end

section
/-! Proofs of the statements on the signal conditioner (40_signal_conditioner.md): one FILTER_UPDATE (R101, R102), the
ring buffer as the window of the last ten samples (R103, R104), and which commands leave the control state alone
(R106). -/

namespace Sys2Proof.Machine

/-! ### One update of a filter -/

/-- FILTER_UPDATE on a legal filter does what R101 describes, on exact sums (R102). -/
theorem filterUpdate_stepSpec {x : Sample} {f g : RingFilter config} (hf : FilterLegal f)
    (h : filterUpdate config x f = some g) : FilterStepSpec f x g := by
  obtain ⟨-, hsum, -⟩ := hf
  obtain ⟨hk, hg⟩ := filterUpdate_eq_some.mp h
  have hbuf : g.buf = f.buf.set f.cur.toNat x := by rw [hg]
  rintro ⟨k, hk10⟩ rfl
  have htrade : slotSum g + (f.buf[f.cur.toNat]).toNat = slotSum f + x.toNat := slotSum_of_buf_set hk hbuf
  rw [← hsum, ← filterUpdate_sum hsum h] at htrade
  refine ⟨?_, fun j hj => ?_, htrade, filterUpdate_cur h, filterUpdate_cv hsum h⟩
  · simp [hbuf]
  · have hne : f.cur.toNat ≠ j.val := fun e => hj (Fin.ext e.symm)
    simp [hbuf, Vector.getElem_set_ne, hne]

/-- A tick updates each filter once, with its own latch (R100). -/
theorem tickBody_updates_filters {s t : State} (h : tickBody s = some t) :
    filterUpdate config s.in0 s.burner0.filter = some t.burner0.filter ∧
    filterUpdate config s.in1 s.burner1.filter = some t.burner1.filter ∧
    filterUpdate config s.in3 s.oven.filter = some t.oven.filter := by
  obtain ⟨b0, b1, o, h0, h1, ho, rfl⟩ := tickBody_eq_some.mp h
  obtain ⟨f0, hf0, rfl⟩ := burnerTick_eq_some.mp h0
  obtain ⟨f1, hf1, rfl⟩ := burnerTick_eq_some.mp h1
  obtain ⟨f2, hf2, rfl⟩ := ovenTick_eq_some.mp ho
  simp only [arbitrate_burner0, arbitrate_burner1, arbitrate_oven, schedDecide_filter, ovenRelay_filter]
  exact ⟨hf0, hf1, hf2⟩

/-- Settles O34: the tick completes, because legal filters have legal cursors, and each of its three filter updates is
R101's. -/
theorem tickUpdatesTheFilters : Obligations.TickUpdatesTheFilters := by
  unfold Obligations.TickUpdatesTheFilters
  intro s hrunning hlegal0 hlegal1 hlegal2
  obtain ⟨t, htick⟩ := tickBody_isSome ⟨hlegal0.1, hlegal1.1, hlegal2.1⟩
  have hexec : exec .tick s = .next t := by rw [execTick_of_running hrunning, htick]
  obtain ⟨hupdate0, hupdate1, hupdate2⟩ := tickBody_updates_filters htick
  exact ⟨t, hexec, filterUpdate_stepSpec hlegal0 hupdate0, filterUpdate_stepSpec hlegal1 hupdate1,
    filterUpdate_stepSpec hlegal2 hupdate2⟩

/-! ### The window of the last ten samples -/

/-- The slots of a filter from the oldest sample to the newest: the ring read from the cursor on (R24, R101). -/
def window {cfg : Config} (f : RingFilter cfg) : List Sample := f.buf.toList.rotate f.cur.toNat

theorem window_length (f : RingFilter config) : (window f).length = 10 := by
  rw [window, List.length_rotate, Vector.length_toList]

/-- The window holds the slots in another order, so it has their sum. -/
theorem window_sum {cfg : Config} (f : RingFilter cfg) : ((window f).map BitVec.toNat).sum = slotSum f :=
  ((List.rotate_perm _ _).map _).sum_eq

/-- Overwriting the element where a rotation starts, and starting one further on, drops the first element and appends
the new one. -/
theorem rotate_succ_set {α : Type} (l : List α) (k : Nat) (hk : k < l.length) (x : α) :
    (l.set k x).rotate (k + 1) = (l.rotate k).tail ++ [x] := by
  have hlen : (l.take k ++ [x]).length = k + 1 := by simp; omega
  have hset : l.set k x = (l.take k ++ [x]) ++ l.drop (k + 1) := by
    rw [List.set_eq_take_append_cons_drop, if_pos hk, List.append_assoc, List.singleton_append]
  calc
    (l.set k x).rotate (k + 1) = l.drop (k + 1) ++ (l.take k ++ [x]) := by
      rw [hset, ← hlen, List.rotate_append_length_eq, hlen]
    _ = (l.drop k ++ l.take k).tail ++ [x] := by
      rw [List.drop_eq_getElem_cons hk, List.cons_append, List.tail_cons, List.append_assoc]
    _ = (l.rotate k).tail ++ [x] := by rw [List.rotate_eq_drop_append_take hk.le]

/-- FILTER_UPDATE shifts the window by one sample: the oldest leaves and the new one enters (R101). -/
theorem window_filterUpdate {x : Sample} {f g : RingFilter config} (h : filterUpdate config x f = some g) :
    window g = (window f).tail ++ [x] := by
  obtain ⟨hk, hg⟩ := filterUpdate_eq_some.mp h
  have hbuf : g.buf.toList = f.buf.toList.set f.cur.toNat x := by rw [hg, Vector.toList_set]
  have hlength : (f.buf.toList.set f.cur.toNat x).length = 10 := by simp
  have hwrap : window g = (f.buf.toList.set f.cur.toNat x).rotate (f.cur.toNat + 1) := by
    rw [window, hbuf, filterUpdate_cur h, ← hlength, List.rotate_mod]
  rw [hwrap, rotate_succ_set _ _ (by simpa using hk), window]

/-- The first of a sequence of updates, then the others. -/
theorem feed_cons {cfg : Config} {x : Sample} {f g : RingFilter cfg} (h : filterUpdate cfg x f = some g)
    (xs : List Sample) : feed cfg (x :: xs) f = feed cfg xs g := by
  simp [feed, h]

/-- Updates of a legal filter complete, keep it legal, and leave in the window what is left of the old one followed by
the newest samples (R103, R104). -/
theorem feed_window (xs : List Sample) : ∀ f : RingFilter config, FilterLegal f →
    ∃ g, feed config xs f = some g ∧ FilterLegal g ∧ window g = (window f ++ xs).drop xs.length := by
  induction xs with
  | nil => exact fun f hf => ⟨f, rfl, hf, by simp⟩
  | cons x xs ih =>
    intro f hf
    obtain ⟨f', hupdate⟩ := filterUpdate_isSome config x hf.1
    obtain ⟨g, hfeed, hg, hwindow⟩ := ih f' (filterUpdate_keeps_legal hf hupdate)
    have hnonempty : window f ≠ [] := List.ne_nil_of_length_pos (by rw [window_length]; decide)
    refine ⟨g, (feed_cons hupdate xs).trans hfeed, hg, ?_⟩
    calc
      window g = ((window f).tail ++ x :: xs).drop xs.length := by
        rw [hwindow, window_filterUpdate hupdate, List.append_assoc, List.singleton_append]
      _ = ((window f ++ x :: xs).tail).drop xs.length := by rw [List.tail_append_of_ne_nil hnonempty]
      _ = (window f ++ x :: xs).drop (x :: xs).length := List.drop_tail

/-- The conditioned value of a legal filter is the floored mean of its window (R101). -/
theorem cv_eq_window_mean {f : RingFilter config} (hf : FilterLegal f) :
    f.cv.toNat = ((window f).map BitVec.toNat).sum / 10 := by
  obtain ⟨-, hsum, hcv⟩ := hf
  rw [hcv, hsum, window_sum]

/-- Settles O48: after ten updates the window is the last ten samples. -/
theorem movingAverageOfLastTenSamples : Obligations.MovingAverageOfLastTenSamples := by
  unfold Obligations.MovingAverageOfLastTenSamples
  intro f xs hf hlen
  obtain ⟨g, hfeed, hg, hwindow⟩ := feed_window xs f hf
  have hlast : window g = xs.drop (xs.length - 10) := by
    rw [hwindow, List.drop_append, window_length,
      List.drop_eq_nil_of_le ((window_length f).trans_le hlen), List.nil_append]
  exact ⟨g, hfeed, by rw [cv_eq_window_mean hg, hlast]⟩

/-- After a reset every slot of the window is 0 (R281). -/
theorem window_zero : window (RingFilter.zero : RingFilter config) = List.replicate 10 0#12 := by
  decide

/-- Settles O49: before ten updates the window is the remaining zero slots followed by the samples. -/
theorem warmUpCountsZeroSlots : Obligations.WarmUpCountsZeroSlots := by
  unfold Obligations.WarmUpCountsZeroSlots
  intro xs hlen
  obtain ⟨g, hfeed, hg, hwindow⟩ := feed_window xs RingFilter.zero filterLegal_zero
  have hslots : window g = List.replicate (10 - xs.length) 0#12 ++ xs := by
    rw [hwindow, window_zero, List.drop_append_of_le_length (by simp; omega), List.drop_replicate]
  have hsum : ((window g).map BitVec.toNat).sum = (xs.map BitVec.toNat).sum := by simp [hslots]
  exact ⟨g, hfeed, by rw [cv_eq_window_mean hg, hsum]⟩

/-! ### The commands that leave the control state alone -/

/-- What TICK and the resets alone may change: the cycle timer, the burners and the oven with their filters, the power
budget and `PCA` (R21, R46), and the model's own list of events, are as they were. -/
def KeepsControl (s t : State) : Prop :=
  t.cycStart = s.cycStart ∧ t.cycPos = s.cycPos ∧ t.burner0 = s.burner0 ∧ t.burner1 = s.burner1 ∧ t.oven = s.oven ∧
    t.budget = s.budget ∧ t.pca = s.pca ∧ t.pending = s.pending

theorem KeepsControl.refl (s : State) : KeepsControl s s := ⟨rfl, rfl, rfl, rfl, rfl, rfl, rfl, rfl⟩

/-- A gated command that always answers keeps the control state when its change does. -/
theorem gated_update_keepsControl {f : State → State} {s : State} (h : KeepsControl s (f s)) :
    ∃ t, unlessHalted s (fun s => .next (f s)) = .next t ∧ KeepsControl s t := by
  obtain ⟨t, ht⟩ := gated_update_completes f s
  rcases unlessHalted_cases ht with ⟨-, rfl⟩ | ⟨-, hf⟩
  · exact ⟨_, ht, .refl _⟩
  · obtain rfl := Host.Outcome.next.inj hf
    exact ⟨_, ht, h⟩

/-- RDREG writes the read port and the error record (R218, R219). -/
theorem rdreg_keepsControl (idx : BitVec 8) (s : State) :
    ∃ t, exec (.rdreg idx) s = .next t ∧ KeepsControl s t := by
  rw [execRdreg_eq]
  cases readIndex idx s with
  | some v => exact ⟨_, rfl, .refl s⟩
  | none => exact ⟨_, rfl, .refl s⟩

/-- START writes the run state or the error record (R220). -/
theorem start_keepsControl (sinkOk : Bool) (s : State) :
    ∃ t, exec (.start sinkOk) s = .next t ∧ KeepsControl s t := by
  rw [exec_start_eq]
  split_ifs <;> exact ⟨_, rfl, .refl s⟩

/-- R106: the other commands write latches, the clock, the run state, the error record or the read port. -/
theorem exec_keepsControl {i : Instr} (htick : i ≠ .tick) (hrst : i ≠ .rst) (s : State) :
    ∃ t, exec i s = .next t ∧ KeepsControl s t := by
  cases i with
  | nop => exact ⟨s, exec_nop_eq s, .refl s⟩
  | setin sel val =>
    exact gated_update_keepsControl (f := writeInput sel (clampSample config val)) (by simp [KeepsControl])
  | settl val => exact gated_update_keepsControl (f := fun s => { s with now := withLowHalf s.now val }) (.refl s)
  | setth val => exact gated_update_keepsControl (f := fun s => { s with now := withHighHalf s.now val }) (.refl s)
  | tick => exact absurd rfl htick
  | rdreg idx => exact rdreg_keepsControl idx s
  | start sinkOk => exact start_keepsControl sinkOk s
  | clrerr => exact gated_update_keepsControl (f := clearError) (.refl s)
  | rst => exact absurd rfl hrst

/-- Settles O30, command by command. -/
theorem onlyTickAndResetChangeControlState : Obligations.OnlyTickAndResetChangeControlState := by
  unfold Obligations.OnlyTickAndResetChangeControlState
  exact fun _ s htick hrst => exec_keepsControl htick hrst s

end Sys2Proof.Machine
end

section
/-! Proofs of the statements on the duty mapper (41_duty_mapper.md): the two branches of the hysteresis comparator
(R121), the duty registers after a tick (R120 to R122), and stability over a sequence of samples (R124). -/

namespace Sys2Proof.Machine

/-! ### The two branches of the comparator -/

/-- R121: a raw duty outside the margin is adopted exactly; no raw duty is too wide for the register (R120). -/
theorem dutyMap_toNat_of_outside {cv : Sample} {held : BitVec 5}
    (h : 2 < ((rawDuty cv : Int) - (held.toNat : Int)).natAbs) : (dutyMap config cv held).toNat = rawDuty cv := by
  rw [dutyMap_toNat, if_pos h]

/-- R121: a raw duty inside the margin, its ends included, leaves the held duty. -/
theorem dutyMap_of_within {cv : Sample} {held : BitVec 5}
    (h : ((rawDuty cv : Int) - (held.toNat : Int)).natAbs ≤ 2) : dutyMap config cv held = held :=
  BitVec.eq_of_toNat_eq (by rw [dutyMap_toNat, if_neg (Nat.not_lt.mpr h)])

/-! ### One tick -/

/-- A tick runs each channel's block once, on the channel's own latch and burner (R216). -/
theorem tickBody_runs_burnerTick {s t : State} (h : tickBody s = some t) (c : Chan) :
    burnerTick config s.now (cyclePosition config s.now s.cycStart) (burnerInput c s) (burnerOf c s) =
      some (burnerOf c t) := by
  obtain ⟨b0, b1, o, h0, h1, -, rfl⟩ := tickBody_eq_some.mp h
  cases c with
  | b0 => exact h0
  | b1 => exact h1

/-- The duty registers after a channel's block: `PREV_DUTY` is the duty the comparator read (R122), and the comparator
takes the filter's new value. -/
theorem burnerTick_maps_duty {cfg : Config} {t pos : Time cfg} {x : Sample} {b b' : Burner cfg}
    (h : burnerTick cfg t pos x b = some b') :
    b'.prevDuty = b.duty ∧ b'.duty = dutyMap cfg b'.filter.cv b.duty := by
  obtain ⟨f, -, rfl⟩ := burnerTick_eq_some.mp h
  simp only [schedDecide_prevDuty, schedDecide_duty, schedDecide_filter, and_self]

/-- Settles O35: each channel's duty comes from DUTY_MAP, whose two branches are the two clauses. -/
theorem tickMapsTheDuty : Obligations.TickMapsTheDuty := by
  unfold Obligations.TickMapsTheDuty
  intro s hrunning hcursors
  obtain ⟨t, htick⟩ := tickBody_isSome hcursors
  have hexec : exec .tick s = .next t := by rw [execTick_of_running hrunning, htick]
  refine ⟨t, hexec, fun c => ?_⟩
  obtain ⟨hprev, hduty⟩ := burnerTick_maps_duty (tickBody_runs_burnerTick htick c)
  refine ⟨hprev, fun houtside => ?_, fun hwithin => ?_⟩
  · rw [hduty, dutyMap_toNat_of_outside houtside]
  · rw [hduty, dutyMap_of_within hwithin]

/-! ### Sequences of samples -/

/-- R124, no chatter: each sample inside the margin leaves the held duty for the next one. -/
theorem foldl_dutyMap_of_within {held : BitVec 5} {cvs : List Sample}
    (h : ∀ cv ∈ cvs, ((rawDuty cv : Int) - (held.toNat : Int)).natAbs ≤ 2) :
    cvs.foldl (fun d cv => dutyMap config cv d) held = held := by
  induction cvs with
  | nil => rfl
  | cons cv cvs ih =>
    obtain ⟨hfirst, hrest⟩ := List.forall_mem_cons.mp h
    rw [List.foldl_cons, dutyMap_of_within hfirst, ih hrest]

/-- Settles O50: the samples inside the margin end at the held duty, and the one after them is compared against it. -/
theorem hysteresisStability : Obligations.HysteresisStability := by
  unfold Obligations.HysteresisStability
  intro held cvs hwithin
  have hheld := foldl_dutyMap_of_within hwithin
  refine ⟨hheld, fun cv houtside => ?_⟩
  rw [List.foldl_concat, hheld, dutyMap_toNat_of_outside houtside]

end Sys2Proof.Machine
end

section
/-! Proofs of the statements on the cycle scheduler (42_cycle_scheduler.md): the cycle timer (R140), the intended state
and its share of a cycle (R142, R145), the relay decision of one tick (R143, R147), and the time between two
transitions of a relay (R144). -/

namespace Sys2Proof.Machine

/-! ### The cycle timer -/

/-- R140: past the cycle's length, the cycle restarts at the tick's time. -/
theorem cycleAdvance_of_expired {t start : Time config} (h : 30000 < tdiff t start) :
    cycleAdvance config t start = t := if_pos h

/-- R140: within the cycle's length, its end included, the cycle goes on. -/
theorem cycleAdvance_of_within {t start : Time config} (h : tdiff t start ≤ 30000) :
    cycleAdvance config t start = start := if_neg (Nat.not_lt.mpr h)

/-- A tick writes the cycle timer by CYCLE_ADVANCE (R140, R216). -/
theorem tickBody_advances_cycle {s t : State} (h : tickBody s = some t) :
    t.cycStart = cycleAdvance config s.now s.cycStart ∧ t.cycPos = cyclePosition config s.now s.cycStart := by
  obtain ⟨b0, b1, o, -, -, -, rfl⟩ := tickBody_eq_some.mp h
  exact ⟨rfl, rfl⟩

/-- Settles O33: the tick writes CYCLE_ADVANCE's two results, and its two branches are the two clauses. -/
theorem tickAdvancesTheCycle : Obligations.TickAdvancesTheCycle := by
  unfold Obligations.TickAdvancesTheCycle
  intro s hrunning hcursors
  obtain ⟨t, htick⟩ := tickBody_isSome hcursors
  have hexec : exec .tick s = .next t := by rw [execTick_of_running hrunning, htick]
  obtain ⟨hstart, hpos⟩ := tickBody_advances_cycle htick
  refine ⟨t, hexec, fun hexpired => ?_, fun hwithin => ?_⟩
  · rw [hstart, hpos, cyclePosition, cycleAdvance_of_expired hexpired]
    exact ⟨rfl, BitVec.sub_self s.now⟩
  · rw [hstart, hpos, cyclePosition, cycleAdvance_of_within hwithin]
    exact ⟨rfl, rfl⟩

/-! ### The intended state over a cycle -/

/-- R142: a duty below the full one intends ON in the first 1000 ms of the cycle for each of its units. -/
theorem intended_of_lt {d : Nat} (hd : d < 30) (pos : Nat) : intended config d pos = decide (pos < 1000 * d) := by
  rw [Bool.eq_iff_iff, intended_config, decide_eq_true_eq]
  omega

/-- Of the first `n` positions, exactly `k` lie before position `k`. -/
theorem countP_range_lt {k n : Nat} (h : k ≤ n) : (List.range n).countP (fun pos => decide (pos < k)) = k := by
  obtain ⟨m, rfl⟩ := Nat.exists_eq_add_of_le h
  have hbefore : (List.range k).countP (fun pos => decide (pos < k)) = (List.range k).length :=
    List.countP_eq_length.mpr fun pos hpos => decide_eq_true (List.mem_range.mp hpos)
  have hafter : ((List.range m).map (k + ·)).countP (fun pos => decide (pos < k)) = 0 := by
    simp [List.countP_eq_zero]
  rw [List.range_add, List.countP_append, hbefore, hafter, List.length_range, Nat.add_zero]

/-- Settles O51: below the full duty the ON positions are those before `1000 d`, which lies within the cycle; the full
duty does not look at the position. -/
theorem onTimePerCycle : Obligations.OnTimePerCycle := by
  unfold Obligations.OnTimePerCycle
  refine ⟨fun d hd => ?_, fun d hd => ?_, fun pos => ?_⟩
  · simp only [intended_of_lt hd]
    exact countP_range_lt (by omega)
  · rw [intended_of_lt hd, decide_eq_false_iff_not]
    omega
  · exact (intended_config 30 pos).mpr (.inl (Nat.le_refl 30))

/-! ### The relay decision of one tick -/

/-- R143: what a channel's block does to its relay and timestamp, against the intended state of its new duty. -/
theorem burnerTick_decides_relay {t pos : Time config} {x : Sample} {b b' : Burner config}
    (h : burnerTick config t pos x b = some b') :
    (intended config b'.duty.toNat pos.toNat ≠ b.relay ∧ 50 ≤ tdiff t b.lastT ∧
      b'.relay = intended config b'.duty.toNat pos.toNat ∧ b'.lastT = t) ∨
    ((intended config b'.duty.toNat pos.toNat = b.relay ∨ tdiff t b.lastT < 50) ∧
      b'.relay = b.relay ∧ b'.lastT = b.lastT) := by
  obtain ⟨f, -, rfl⟩ := burnerTick_eq_some.mp h
  rw [schedDecide_duty]
  rcases schedDecide_cases config t pos { b with filter := f, prevDuty := b.duty, duty := dutyMap config f.cv b.duty }
    with ⟨hchange, helapsed, hnew⟩ | ⟨hblocked, hsame⟩
  · rw [hnew]
    exact .inl ⟨hchange, helapsed, rfl, rfl⟩
  · rw [hsame]
    exact .inr ⟨hblocked, rfl, rfl⟩

/-- Settles O36: the duty and position that SCHED_DECIDE reads are those the tick leaves, and its two outcomes are the
two clauses. -/
theorem tickDecidesTheRelay : Obligations.TickDecidesTheRelay := by
  unfold Obligations.TickDecidesTheRelay
  intro s hrunning hcursors
  obtain ⟨t, htick⟩ := tickBody_isSome hcursors
  have hexec : exec .tick s = .next t := by rw [execTick_of_running hrunning, htick]
  refine ⟨t, hexec, fun c on hon => ?_⟩
  obtain ⟨-, hpos⟩ := tickBody_advances_cycle htick
  have hintended : intended config (burnerOf c t).duty.toNat t.cycPos.toNat = on :=
    Bool.eq_iff_iff.mpr ((intended_config _ _).trans hon.symm)
  have hdecides := burnerTick_decides_relay (tickBody_runs_burnerTick htick c)
  rw [← hpos, hintended] at hdecides
  rcases hdecides with ⟨hchange, helapsed, hrelay, hlast⟩ | ⟨hblocked, hrelay, hlast⟩
  · refine ⟨fun _ => ⟨hrelay, hlast⟩, fun hnot => ?_⟩
    rcases hnot with hsame | hearly
    · exact absurd hsame hchange
    · exact absurd hearly (Nat.not_lt.mpr helapsed)
  · refine ⟨fun ⟨hchange, helapsed⟩ => ?_, fun _ => ⟨hrelay, hlast⟩⟩
    rcases hblocked with hsame | hearly
    · exact absurd hsame hchange
    · exact absurd hearly (Nat.not_lt.mpr helapsed)

/-! ### The relay over a run -/

/-- The relay and its timestamp are as they were (R147). -/
def KeepsRelay (b b' : Burner config) : Prop := b'.relay = b.relay ∧ b'.lastT = b.lastT

/-- A transition at time `now`: the interval since the last one has elapsed, and the timestamp is written (R143). -/
def TransitionAt (now : Time config) (b b' : Burner config) : Prop :=
  b'.relay ≠ b.relay ∧ 50 ≤ tdiff now b.lastT ∧ b'.lastT = now

/-- In a tick a relay makes a transition at the tick's time, or keeps its state and timestamp (R143, R147). -/
theorem tickBody_relay_cases {s t : State} (h : tickBody s = some t) (c : Chan) :
    KeepsRelay (burnerOf c s) (burnerOf c t) ∨ TransitionAt s.now (burnerOf c s) (burnerOf c t) := by
  rcases burnerTick_decides_relay (tickBody_runs_burnerTick h c) with
    ⟨hchange, helapsed, hrelay, hlast⟩ | ⟨-, hrelay, hlast⟩
  · exact .inr ⟨by rwa [hrelay], helapsed, hlast⟩
  · exact .inl ⟨hrelay, hlast⟩

/-- Of the commands but RST, TICK alone moves a relay or writes its timestamp. -/
theorem CommandEffect.relay_cases {i : Instr} {s t : State} (h : CommandEffect s i t) (hrst : i ≠ .rst) (c : Chan) :
    KeepsRelay (burnerOf c s) (burnerOf c t) ∨
      (i = .tick ∧ TransitionAt s.now (burnerOf c s) (burnerOf c t)) := by
  cases h with
  | resets => exact absurd rfl hrst
  | ticks hrun htick => exact (tickBody_relay_cases htick c).imp_right fun hmove => ⟨rfl, hmove⟩
  | _ => exact .inl (by cases c <;> exact ⟨rfl, rfl⟩)

/-- Over a step without a reset, a relay makes a transition in a TICK, or keeps its state and timestamp. -/
theorem step_relay_cases {s t : State} (h : step s = .next t) (hreset : ¬ ResetsNext s) (c : Chan) :
    KeepsRelay (burnerOf c s) (burnerOf c t) ∨
      (TicksNext s ∧ TransitionAt s.now (burnerOf c s) (burnerOf c t)) := by
  rcases step_cases h with ⟨-, rfl⟩ | ⟨rest, hport, -⟩ | ⟨w, rest, i, hport, hdecode, hexec⟩ |
    ⟨w, rest, -, hrejected, -⟩
  · exact .inl ⟨rfl, rfl⟩
  · exact absurd (.inl (by rw [hport]; rfl)) hreset
  · have hrst : i ≠ .rst := by
      rintro rfl
      exact hreset (.inr (by rw [hport, word_of_decode_rst hdecode]; rfl))
    rcases (effect_of_exec hexec).relay_cases hrst c with hkeeps | ⟨rfl, hmove⟩
    · exact .inl (by cases c <;> exact hkeeps)
    · have hword : encode .tick = w := encodeOfDecodeIsTheWord w .tick hdecode
      have hticks : TicksNext s := by
        rw [TicksNext, hport, ← hword]
        rfl
      exact .inr ⟨hticks, by cases c <;> exact hmove⟩
  · refine .inl ?_
    rcases hrejected with rfl | ⟨code, -, rfl⟩ <;> cases c <;> exact ⟨rfl, rfl⟩

/-- A step that changes a relay, without a reset, is a TICK with a debounced transition (R143). -/
theorem step_transition {s t : State} (h : step s = .next t) (hreset : ¬ ResetsNext s) {c : Chan}
    (hchange : (burnerOf c t).relay ≠ (burnerOf c s).relay) :
    TicksNext s ∧ TransitionAt s.now (burnerOf c s) (burnerOf c t) :=
  (step_relay_cases h hreset c).resolve_left fun hkeeps => hchange hkeeps.1

/-- A quiet stretch leaves the relay's timestamp, because only a transition writes it (R147). -/
theorem QuietBurner.lastT_eq {c : Chan} {s t : State} (h : QuietBurner c s t) :
    (burnerOf c t).lastT = (burnerOf c s).lastT := by
  induction h with
  | here s => rfl
  | more s t u hstep hreset hquiet _ ih =>
    rcases step_relay_cases hstep hreset c with ⟨-, hlast⟩ | ⟨-, hchange, -⟩
    · rw [ih, hlast]
    · exact absurd hquiet hchange

/-- Settles O57: the first transition writes its time to the timestamp, the quiet stretch keeps it, and the second
transition is debounced against it. -/
theorem debounceBetweenTransitions : Obligations.DebounceBetweenTransitions := by
  unfold Obligations.DebounceBetweenTransitions
  intro c s0 s1 s2 s3 hfirst hreset0 hchange0 hquiet hsecond hreset2 hchange2
  obtain ⟨hticks0, -, -, hstamp⟩ := step_transition hfirst hreset0 hchange0
  obtain ⟨hticks2, -, helapsed, -⟩ := step_transition hsecond hreset2 hchange2
  rw [hquiet.lastT_eq, hstamp] at helapsed
  exact ⟨hticks0, hticks2, helapsed⟩

end Sys2Proof.Machine
end

section
/-! Proofs of the statements on the oven controller (43_oven_controller.md): the inputs a tick reads (R160 to R162), the
intended state of the bake relay (R167), the relays and the timestamp after a tick (R163 to R169), and the time between
two changes of the bake relay (R171). -/

namespace Sys2Proof.Machine

/-! ### The intended state of the bake relay -/

/-- R167: below the dead band both readings intend ON. -/
theorem bakeIntended_of_below {cfg : Config} {temp : BitVec 16} {sp : BitVec 10} (old : Bool)
    (h : temp.toInt < (sp.toNat : Int) - cfg.hystTemp) : bakeIntended cfg temp sp old = true := if_pos h

/-- R167, `THRESHOLD`: everywhere else the intended state is OFF. -/
theorem bakeIntended_of_threshold {cfg : Config} {temp : BitVec 16} {sp : BitVec 10} (old : Bool)
    (hrule : cfg.ovenOffRule = .threshold) (h : (sp.toNat : Int) - cfg.hystTemp ≤ temp.toInt) :
    bakeIntended cfg temp sp old = false := by
  simp only [bakeIntended, if_neg (Int.not_lt.mpr h), hrule]

/-- R167, `BAND`: at or above the lower edge of the dead band, only the upper edge decides. -/
theorem bakeIntended_of_band {cfg : Config} {temp : BitVec 16} {sp : BitVec 10} (old : Bool)
    (hrule : cfg.ovenOffRule = .band) (h : (sp.toNat : Int) - cfg.hystTemp ≤ temp.toInt) :
    bakeIntended cfg temp sp old = if (sp.toNat : Int) + cfg.hystTemp < temp.toInt then false else old := by
  simp only [bakeIntended, if_neg (Int.not_lt.mpr h), hrule, gt_iff_lt]

/-- Settles O40: below, above and inside the dead band. -/
theorem bakeIntentUnderBothOffRules : Obligations.BakeIntentUnderBothOffRules := by
  unfold Obligations.BakeIntentUnderBothOffRules
  intro cfg temp sp old
  refine ⟨bakeIntended_of_below old, bakeIntended_of_threshold old, fun hrule habove => ?_,
    fun hrule hlow hhigh => ?_, rfl, rfl⟩
  · rw [bakeIntended_of_band old hrule (by omega), if_pos habove]
  · rw [bakeIntended_of_band old hrule hlow, if_neg (Int.not_lt.mpr hhigh)]

/-- What the hysteresis asks of the bake relay on this hardware: ON below the dead band, OFF above it, and the relay's
own state inside it, edges included (R167 with `BAND`, assumption 6). -/
def BakeWanted (temp : BitVec 16) (sp : BitVec 10) (old want : Bool) : Prop :=
  (temp.toInt < (sp.toNat : Int) - 2 → want = true) ∧ ((sp.toNat : Int) + 2 < temp.toInt → want = false) ∧
    ((sp.toNat : Int) - 2 ≤ temp.toInt → temp.toInt ≤ (sp.toNat : Int) + 2 → want = old)

/-- The three temperature cases leave one wanted state, which is the intended one (R167). -/
theorem BakeWanted.eq_bakeIntended {temp : BitVec 16} {sp : BitVec 10} {old want : Bool}
    (h : BakeWanted temp sp old want) : bakeIntended config temp sp old = want := by
  obtain ⟨hbelow, habove, hinside⟩ := h
  rcases Int.lt_or_le temp.toInt ((sp.toNat : Int) - 2) with hlow | hlow
  · rw [hbelow hlow]
    exact bakeIntended_of_below old hlow
  · rw [bakeIntended_of_band old rfl hlow]
    split
    · next hhigh => exact (habove hhigh).symm
    · next hhigh => exact (hinside hlow (Int.not_lt.mp hhigh)).symm

/-! ### What a tick reads -/

/-- A tick runs the oven's block once, on its own latches (R216). -/
theorem tickBody_runs_ovenTick {s t : State} (h : tickBody s = some t) :
    ovenTick config s.now s.in2 s.in3 s.oven = some t.oven := by
  obtain ⟨b0, b1, o, -, -, ho, rfl⟩ := tickBody_eq_some.mp h
  exact ho

/-- TICK in RUNNING completes and runs the oven's block (R215, R216). -/
theorem exec_tick_runs_ovenTick {s : State} (hrunning : Running s) (hcursors : CursorsLegal s) :
    ∃ t, exec .tick s = .next t ∧ ovenTick config s.now s.in2 s.in3 s.oven = some t.oven := by
  obtain ⟨t, htick⟩ := tickBody_isSome hcursors
  exact ⟨t, by rw [execTick_of_running hrunning, htick], tickBody_runs_ovenTick htick⟩

/-- The registers that OVEN_RELAY reads: temperature, setpoint and mode of this tick (R160 to R162). -/
theorem ovenTick_reads_inputs {cfg : Config} {t : Time cfg} {pot x : Sample} {o o' : Oven cfg}
    (h : ovenTick cfg t pot x o = some o') :
    o'.temp = cfg.tempConv o'.filter.cv ∧ o'.sp = setpoint cfg pot ∧ o'.mode = ovenMode cfg o'.sp := by
  obtain ⟨f, -, rfl⟩ := ovenTick_eq_some.mp h
  exact ⟨rfl, rfl, rfl⟩

/-- Settles O37: the tick's setpoint is SETPOINT of the latch, and its mode OVEN_MODE of that setpoint. -/
theorem tickReadsTheOvenInputs : Obligations.TickReadsTheOvenInputs := by
  unfold Obligations.TickReadsTheOvenInputs
  intro s hrunning hcursors
  obtain ⟨t, hexec, hoven⟩ := exec_tick_runs_ovenTick hrunning hcursors
  obtain ⟨htemp, hsp, hmode⟩ := ovenTick_reads_inputs hoven
  obtain ⟨hoff, hbake, hbroil⟩ := ovenMode_config t.oven.sp
  rw [← hmode] at hoff hbake hbroil
  exact ⟨t, hexec, by rw [hsp, setpoint_toNat], hoff, hbake, hbroil, htemp⟩

/-- The mode by the potentiometer latch: setpoint 0 up to 186, and 550 at 4095 alone (R160, R161). -/
theorem ovenMode_setpoint (pot : Sample) :
    (ovenMode config (setpoint config pot) = .off ↔ pot.toNat ≤ 186) ∧
    (ovenMode config (setpoint config pot) = .bake ↔ 187 ≤ pot.toNat ∧ pot.toNat ≤ 4094) ∧
    (ovenMode config (setpoint config pot) = .broil ↔ pot.toNat = 4095) := by
  have hpot := pot.isLt
  have hsp := setpoint_toNat pot
  obtain ⟨hoff, hbake, hbroil⟩ := ovenMode_config (setpoint config pot)
  rw [hoff, hbake, hbroil]
  omega

/-- The mode that a tick leaves, by the potentiometer latch (R160, R161). -/
theorem ovenTick_mode {t : Time config} {pot x : Sample} {o o' : Oven config}
    (h : ovenTick config t pot x o = some o') :
    (o'.mode = .off ↔ pot.toNat ≤ 186) ∧ (o'.mode = .bake ↔ 187 ≤ pot.toNat ∧ pot.toNat ≤ 4094) ∧
    (o'.mode = .broil ↔ pot.toNat = 4095) := by
  obtain ⟨-, hsp, hmode⟩ := ovenTick_reads_inputs h
  rw [hmode, hsp]
  exact ovenMode_setpoint pot

/-! ### What a tick does to the oven relays -/

/-- The relays that a mode forces, without debounce and without the temperature (R164 to R166). -/
def RelaysForced {cfg : Config} (o : Oven cfg) : Prop :=
  (o.mode = .off → o.bake = false ∧ o.broil = false) ∧ (o.mode = .bake → o.broil = false) ∧
    (o.mode = .broil → o.bake = true ∧ o.broil = true)

/-- OVEN_RELAY leaves the relays as the mode forces them (R163). -/
theorem ovenRelay_forces {cfg : Config} (t : Time cfg) (o : Oven cfg) : RelaysForced (ovenRelay cfg t o) := by
  unfold RelaysForced
  simp only [ovenRelay_mode, ovenRelay_bake, ovenRelay_broil, bakeNext, broilNext]
  cases o.mode <;> simp

theorem ovenTick_forces {cfg : Config} {t : Time cfg} {pot x : Sample} {o o' : Oven cfg}
    (h : ovenTick cfg t pot x o = some o') : RelaysForced o' := by
  obtain ⟨f, -, rfl⟩ := ovenTick_eq_some.mp h
  exact ovenRelay_forces t _

/-- Settles O38: the latch fixes the mode, and the mode forces the relays. -/
theorem modeForcesOvenRelays : Obligations.ModeForcesOvenRelays := by
  unfold Obligations.ModeForcesOvenRelays
  intro s hrunning hcursors
  obtain ⟨t, hexec, hoven⟩ := exec_tick_runs_ovenTick hrunning hcursors
  obtain ⟨hoff, hbake, hbroil⟩ := ovenTick_mode hoven
  obtain ⟨hoffRelays, hbakeRelays, hbroilRelays⟩ := ovenTick_forces hoven
  refine ⟨t, hexec, fun hpot => ?_, fun hpot => ?_, fun hpot => ?_, hoffRelays, hbakeRelays, hbroilRelays⟩
  · exact ⟨hoff.mpr hpot, hoffRelays (hoff.mpr hpot)⟩
  · exact ⟨hbake.mpr hpot, hbakeRelays (hbake.mpr hpot)⟩
  · exact ⟨hbroil.mpr hpot, hbroilRelays (hbroil.mpr hpot)⟩

/-- In Bake mode the bake relay takes the intended state when it differs and the interval has elapsed (R168). -/
theorem bakeNext_of_bake {cfg : Config} (t : Time cfg) {o : Oven cfg} (hmode : o.mode = .bake) :
    bakeNext cfg t o =
      if bakeIntended cfg o.temp o.sp o.bake ≠ o.bake ∧ cfg.debounceMs ≤ tdiff t o.lastT then
        bakeIntended cfg o.temp o.sp o.bake
      else o.bake := by
  simp only [bakeNext, hmode, ge_iff_le]

/-- The bake relay after a tick in Bake mode, by this tick's temperature and setpoint (R163, R168). -/
theorem ovenTick_debounces_bake {cfg : Config} {t : Time cfg} {pot x : Sample} {o o' : Oven cfg}
    (h : ovenTick cfg t pot x o = some o') (hmode : o'.mode = .bake) :
    o'.bake =
      if bakeIntended cfg o'.temp o'.sp o.bake ≠ o.bake ∧ cfg.debounceMs ≤ tdiff t o.lastT then
        bakeIntended cfg o'.temp o'.sp o.bake
      else o.bake := by
  obtain ⟨f, -, rfl⟩ := ovenTick_eq_some.mp h
  exact bakeNext_of_bake t hmode

/-- Settles O39: the wanted state is the intended one, and the two branches of the debounce are the two clauses. -/
theorem bakeRelayHysteresisAndDebounce : Obligations.BakeRelayHysteresisAndDebounce := by
  unfold Obligations.BakeRelayHysteresisAndDebounce
  intro s hrunning hcursors hlow hhigh
  obtain ⟨t, hexec, hoven⟩ := exec_tick_runs_ovenTick hrunning hcursors
  refine ⟨t, hexec, fun want hwant => ?_⟩
  obtain ⟨-, hmode, -⟩ := ovenTick_mode hoven
  have hbake := ovenTick_debounces_bake hoven (hmode.mpr ⟨hlow, hhigh⟩)
  rw [BakeWanted.eq_bakeIntended hwant] at hbake
  refine ⟨fun hadmitted => ?_, fun hblocked => ?_⟩
  · exact hbake.trans (if_pos hadmitted)
  · refine hbake.trans (if_neg fun ⟨hchange, helapsed⟩ => ?_)
    exact hblocked.elim hchange (Nat.not_lt.mpr helapsed)

/-- `OVEN_LASTT` is the tick's time after a change of the bake relay and stays without one, in every mode (R169). -/
theorem ovenTick_lastT {cfg : Config} {t : Time cfg} {pot x : Sample} {o o' : Oven cfg}
    (h : ovenTick cfg t pot x o = some o') : o'.lastT = if o'.bake ≠ o.bake then t else o.lastT := by
  obtain ⟨f, -, rfl⟩ := ovenTick_eq_some.mp h
  exact ovenRelay_lastT cfg t _

/-- Settles O41: the two branches of `OVEN_LASTT`'s update are the two clauses. -/
theorem ovenTimestampFollowsBakeRelay : Obligations.OvenTimestampFollowsBakeRelay := by
  unfold Obligations.OvenTimestampFollowsBakeRelay
  intro s hrunning hcursors
  obtain ⟨t, hexec, hoven⟩ := exec_tick_runs_ovenTick hrunning hcursors
  have hlast := ovenTick_lastT hoven
  refine ⟨t, hexec, fun hchange => ?_, fun hsame => ?_⟩
  · rw [hlast, if_pos hchange]
  · rw [hlast, if_neg (not_not_intro hsame)]

/-! ### The bake relay over a run -/

/-- Of the commands but RST, TICK alone writes the oven unit (R46). -/
theorem CommandEffect.oven_cases {i : Instr} {s t : State} (h : CommandEffect s i t) (hrst : i ≠ .rst) :
    t.oven = s.oven ∨ (i = .tick ∧ ovenTick config s.now s.in2 s.in3 s.oven = some t.oven) := by
  cases h with
  | resets => exact absurd rfl hrst
  | ticks hrun htick => exact .inr ⟨rfl, tickBody_runs_ovenTick htick⟩
  | _ => exact .inl rfl

/-- Over a step without a reset, the oven unit stays, or the step is a TICK that runs the oven's block. -/
theorem step_oven_cases {s t : State} (h : step s = .next t) (hreset : ¬ ResetsNext s) :
    t.oven = s.oven ∨ (TicksNext s ∧ ovenTick config s.now s.in2 s.in3 s.oven = some t.oven) := by
  rcases step_cases h with ⟨-, rfl⟩ | ⟨rest, hport, -⟩ | ⟨w, rest, i, hport, hdecode, hexec⟩ |
    ⟨w, rest, -, hrejected, -⟩
  · exact .inl rfl
  · exact absurd (.inl (by rw [hport]; rfl)) hreset
  · have hrst : i ≠ .rst := by
      rintro rfl
      exact hreset (.inr (by rw [hport, word_of_decode_rst hdecode]; rfl))
    rcases (effect_of_exec hexec).oven_cases hrst with hkeeps | ⟨rfl, hoven⟩
    · exact .inl hkeeps
    · have hword : encode .tick = w := encodeOfDecodeIsTheWord w .tick hdecode
      refine .inr ⟨?_, hoven⟩
      rw [TicksNext, hport, ← hword]
      rfl
  · left
    rcases hrejected with rfl | ⟨code, -, rfl⟩ <;> rfl

/-- A step that changes the bake relay, without a reset, is a TICK that runs the oven's block. -/
theorem step_changes_bake {s t : State} (h : step s = .next t) (hreset : ¬ ResetsNext s)
    (hchange : t.oven.bake ≠ s.oven.bake) :
    TicksNext s ∧ ovenTick config s.now s.in2 s.in3 s.oven = some t.oven :=
  (step_oven_cases h hreset).resolve_left fun hkeeps => hchange (by rw [hkeeps])

/-- A quiet stretch leaves `OVEN_LASTT`, because only a change of the bake relay writes it (R169). -/
theorem QuietBake.lastT_eq {s t : State} (h : QuietBake s t) : t.oven.lastT = s.oven.lastT := by
  induction h with
  | here s => rfl
  | more s t u hstep hreset hquiet _ ih =>
    rw [ih]
    rcases step_oven_cases hstep hreset with hkeeps | ⟨-, hoven⟩
    · rw [hkeeps]
    · rw [ovenTick_lastT hoven, if_neg (not_not_intro hquiet)]

/-- Settles O58: the first change, in whatever mode, writes its time to `OVEN_LASTT`, the quiet stretch keeps it, and a
change in Bake mode is debounced against it. -/
theorem bakeChangesAreDebounced : Obligations.BakeChangesAreDebounced := by
  unfold Obligations.BakeChangesAreDebounced
  intro s0 s1 s2 s3 hfirst hreset0 hchange0 hquiet hsecond hreset2 hchange2 hmode
  obtain ⟨hticks0, hoven0⟩ := step_changes_bake hfirst hreset0 hchange0
  obtain ⟨hticks2, hoven2⟩ := step_changes_bake hsecond hreset2 hchange2
  have hstamp : s2.oven.lastT = s0.now := by
    rw [hquiet.lastT_eq, ovenTick_lastT hoven0, if_pos hchange0]
  refine ⟨hticks0, hticks2, ?_⟩
  by_contra hearly
  rw [← hstamp] at hearly
  exact hchange2 ((ovenTick_debounces_bake hoven2 hmode).trans (if_neg fun hadmitted => hearly hadmitted.2))

end Sys2Proof.Machine
end

section
/-! Proofs of the statements on the power arbiter (44_power_arbiter.md): what a tick bills (R190 to R192), the split
and the overload flag (R193 to R197), and the registers that are kept for report only (R198, R217). -/

namespace Sys2Proof.Machine

/-! ### A tick in RUNNING -/

theorem exec_tick_of_tickBody {s t : State} (hrunning : Running s) (h : tickBody s = some t) :
    exec .tick s = .next t := by
  rw [execTick_of_running hrunning, h]

/-- TICK in RUNNING completes, by its body (R215). -/
theorem exec_tick_runs_tickBody {s : State} (hrunning : Running s) (hcursors : CursorsLegal s) :
    ∃ t, exec .tick s = .next t ∧ tickBody s = some t := by
  obtain ⟨t, htick⟩ := tickBody_isSome hcursors
  exact ⟨t, exec_tick_of_tickBody hrunning htick, htick⟩

/-! ### The totals -/

/-- ARBITRATE's answer, once the two totals are known (R196). -/
theorem arbitrate_of_totals {s : State} {duty w : Nat}
    (hduty : totalDuty config (fun c => burnerOf c s) s.oven = duty)
    (hwatts : totalWatts config (fun c => burnerOf c s) s.oven = w) :
    arbitrate s =
      { s with
        budget := budgetOf config duty w
        pca := overload (gridShare config w) (battShare config w) w } := by
  subst hduty hwatts
  rfl

/-- With legal duties the total registers hold the totals uncut (R192). -/
theorem arbitrate_totals {s : State} (h0 : s.burner0.duty.toNat ≤ 30) (h1 : s.burner1.duty.toNat ≤ 30) :
    (arbitrate s).budget.totDuty.toNat = totalDuty config (fun c => burnerOf c s) s.oven ∧
    (arbitrate s).budget.totW.toNat = totalWatts config (fun c => burnerOf c s) s.oven := by
  have hduties : ∀ c, (burnerOf c s).duty.toNat ≤ 30 := fun c => by cases c <;> assumption
  obtain ⟨hduty, hwatts⟩ := totals_le s.oven hduties
  rw [arbitrate_of_totals rfl rfl]
  exact ⟨Nat.mod_eq_of_lt (by omega), Nat.mod_eq_of_lt (by omega)⟩

/-- ARBITRATE reads neither the budget nor the flag it writes (R39, R198). -/
theorem arbitrate_ignores_budget (s : State) (bud : Budget) (flag : Bool) :
    arbitrate { s with budget := bud, pca := flag } = arbitrate s := rfl

/-- ARBITRATE comes last in a tick: the budget and the flag that a tick leaves are those of the registers it leaves
(R190, R191, R216). -/
theorem arbitrate_of_tickBody {s t : State} (h : tickBody s = some t) : arbitrate t = t := by
  obtain ⟨b0, b1, o, -, -, -, rfl⟩ := tickBody_eq_some.mp h
  exact arbitrate_ignores_budget _ _ _

/-- A tick keeps a legal duty legal (R28, R121). -/
theorem tickBody_duty_le {s t : State} (h : tickBody s = some t) (c : Chan) (hc : (burnerOf c s).duty.toNat ≤ 30) :
    (burnerOf c t).duty.toNat ≤ 30 := by
  obtain ⟨-, hduty⟩ := burnerTick_maps_duty (tickBody_runs_burnerTick h c)
  rw [hduty]
  exact dutyMap_le hc

/-- From legal duties a tick leaves a legal budget (R192 to R195). -/
theorem tickBody_budgetLegal {s t : State} (h : tickBody s = some t) (h0 : s.burner0.duty.toNat ≤ 30)
    (h1 : s.burner1.duty.toNat ≤ 30) : BudgetLegal t := by
  have hlegal := arbitrate_budgetLegal (tickBody_duty_le h .b0 h0) (tickBody_duty_le h .b1 h1)
  rwa [arbitrate_of_tickBody h] at hlegal

/-- From legal duties a tick leaves in the total registers the totals of the registers it leaves (R190 to R192). -/
theorem tickBody_totals {s t : State} (h : tickBody s = some t) (h0 : s.burner0.duty.toNat ≤ 30)
    (h1 : s.burner1.duty.toNat ≤ 30) :
    t.budget.totDuty.toNat = ovenDuty config t.oven + burnerDuty t.burner0 + burnerDuty t.burner1 ∧
    t.budget.totW.toNat = ovenWatts config t.oven + burnerWatts config t.burner0 + burnerWatts config t.burner1 := by
  have htotals := arbitrate_totals (tickBody_duty_le h .b0 h0) (tickBody_duty_le h .b1 h1)
  rw [arbitrate_of_tickBody h, totalDuty_config, totalWatts_config, ← Nat.add_assoc, ← Nat.add_assoc] at htotals
  exact htotals

/-- Settles O42: the totals are the sums of the oven's and the burners' contributions, whose definitions are the cases
of the statement, and a legal budget is bounded. -/
theorem tickBillsWhatIsOn : Obligations.TickBillsWhatIsOn := by
  unfold Obligations.TickBillsWhatIsOn
  intro s hrunning hcursors h0 h1
  obtain ⟨t, hexec, htick⟩ := exec_tick_runs_tickBody hrunning hcursors
  obtain ⟨hduty, hwatts⟩ := tickBody_totals htick h0 h1
  obtain ⟨hdutyLe, hwattsLe, -⟩ := tickBody_budgetLegal htick h0 h1
  exact ⟨t, hexec, hduty, hwatts, hdutyLe, hwattsLe⟩

/-! ### The split and the overload flag -/

/-- Settles O43: the budget a tick leaves is legal, and the split of a legal budget is conserved and overloads past the
supply. -/
theorem tickSplitsPowerAndSetsOverload : Obligations.TickSplitsPowerAndSetsOverload := by
  unfold Obligations.TickSplitsPowerAndSetsOverload
  intro s hrunning hcursors h0 h1
  obtain ⟨t, hexec, htick⟩ := exec_tick_runs_tickBody hrunning hcursors
  obtain ⟨-, -, hgrid, hbatt, hoverload⟩ := tickBody_budgetLegal htick h0 h1
  rw [maxSupplyW_config] at hoverload
  have hserved : t.budget.gridW.toNat + t.budget.battW.toNat = min t.budget.totW.toNat 4500 := by omega
  refine ⟨t, hexec, hgrid, hbatt, hserved, by omega, by omega, ?_, hoverload⟩
  rw [hoverload, hserved]
  omega

/-- Settles O44: the totals are 30 + 30 + 30 units and 2585 + 3000 + 3000 W. -/
theorem sourceOverloadExample : Obligations.SourceOverloadExample := by
  unfold Obligations.SourceOverloadExample
  intro s hduty0 hrelay0 hduty1 hrelay1 hmode hbake
  have hduty : totalDuty config (fun c => burnerOf c s) s.oven = 90 := by
    simp [totalDuty_config, ovenDuty, burnerDuty, burnerOf, hduty0, hrelay0, hduty1, hrelay1, hmode, hbake]
  have hwatts : totalWatts config (fun c => burnerOf c s) s.oven = 8585 := by
    simp [totalWatts_config, ovenWatts, burnerWatts, burnerOf, hduty0, hrelay0, hduty1, hrelay1, hmode, hbake]
  rw [arbitrate_of_totals hduty hwatts]
  rfl

/-! ### The registers kept for report only -/

/-- FILTER_UPDATE computes the mean from the sum and does not read the last one (R101). -/
theorem filterUpdate_ignores_cv (cfg : Config) (x : Sample) (f : RingFilter cfg) (c : Sample) :
    filterUpdate cfg x { f with cv := c } = filterUpdate cfg x f := rfl

/-- A channel's block overwrites `PREV_DUTY` and `CV` before it reads them (R122, R216). -/
theorem burnerTick_ignores_reports (cfg : Config) (t pos : Time cfg) (x : Sample) (b : Burner cfg) (d : BitVec 5)
    (c : Sample) :
    burnerTick cfg t pos x { b with prevDuty := d, filter := { b.filter with cv := c } } =
      burnerTick cfg t pos x b := by
  unfold burnerTick
  rw [filterUpdate_ignores_cv]

/-- The oven's block overwrites `CV`, `TEMP`, `SP` and `MODE` before it reads them, and does not read `R_BROIL` (R36,
R163, R216). -/
theorem ovenTick_ignores_reports (cfg : Config) (t : Time cfg) (pot x : Sample) (o : Oven cfg) (temp : BitVec 16)
    (sp : BitVec 10) (m : OvenMode) (broil : Bool) (c : Sample) :
    ovenTick cfg t pot x
        { o with temp := temp, sp := sp, mode := m, broil := broil, filter := { o.filter with cv := c } } =
      ovenTick cfg t pot x o := by
  unfold ovenTick
  rw [filterUpdate_ignores_cv]
  cases filterUpdate cfg x o.filter <;> rfl

/-- Settles O45: every block of the tick answers the same without the report registers, and the tick's state is built
from those answers. -/
theorem tickReadsNoReportRegister : Obligations.TickReadsNoReportRegister := by
  unfold Obligations.TickReadsNoReportRegister
  intro s flag broil bud pos d0 d1 c0 c1 c2 temp sp m hrunning hcursors
  obtain ⟨t, hexec, htick⟩ := exec_tick_runs_tickBody hrunning hcursors
  obtain ⟨b0, b1, o, h0, h1, ho, rfl⟩ := tickBody_eq_some.mp htick
  refine ⟨_, hexec, exec_tick_of_tickBody hrunning (tickBody_eq_some.mpr ⟨b0, b1, o, ?_, ?_, ?_, ?_⟩)⟩
  · exact (burnerTick_ignores_reports config _ _ _ s.burner0 d0 c0).trans h0
  · exact (burnerTick_ignores_reports config _ _ _ s.burner1 d1 c1).trans h1
  · exact (ovenTick_ignores_reports config _ _ _ s.oven temp sp m broil c2).trans ho
  · exact (arbitrate_ignores_budget _ bud flag).symm

end Sys2Proof.Machine
end

section
/-! Proofs of the statements on the commands (45_commands.md): what HALTED ignores (R210), and the answer of each command
but TICK in RUNNING (R211 to R222). -/

namespace Sys2Proof.Machine

/-! ### What HALTED ignores -/

/-- R210: in HALTED a command other than RDREG and RST changes nothing. -/
theorem exec_of_halted {i : Instr} {s : State} (hhalt : s.halt = true) (hignored : actsInHalted i.opcode = false) :
    exec i s = .next s := by
  cases i with
  | nop => exact exec_nop_eq s
  | setin sel val => rw [exec_setin_eq, if_pos hhalt]
  | settl val => rw [exec_settl_eq, if_pos hhalt]
  | setth val => rw [exec_setth_eq, if_pos hhalt]
  | tick => exact unlessHalted_of_halted hhalt runTick
  | rdreg idx => cases hignored
  | start sinkOk => rw [exec_start_eq, if_pos hhalt]
  | clrerr => rw [exec_clrerr_eq, if_pos hhalt]
  | rst => cases hignored

/-- R210: in HALTED an illegal word changes nothing. -/
theorem rejectIllegal_of_halted {s : State} (hhalt : s.halt = true) : rejectIllegal s = .next s :=
  unlessHalted_of_halted hhalt _

/-- R210: in HALTED a reserved word of an opcode other than RDREG and RST changes nothing. -/
theorem rejectReserved_of_halted {op : Opcode} {s : State} (hhalt : s.halt = true)
    (hignored : actsInHalted op = false) : rejectReserved op s = .next s := by
  rw [rejectReserved, if_neg (Bool.eq_false_iff.mp hignored), unlessHalted_of_halted hhalt]

/-- R82: the word of a command carries the byte of its opcode. -/
theorem opcByte_of_decode {w : Word} {i : Instr} (h : decode w = .cmd i) : opcByte w = i.opcode.byte := by
  obtain ⟨op, hmatch, rfl⟩ := match_of_decode h
  rw [opcByte_of_match hmatch, opcode_operands]

/-- R210: the first test of the dispatch reads the opcode byte alone. -/
theorem actsInHalted_eq_false {w : Word} {op : Opcode} (hbyte : opcByte w = op.byte) (hrdreg : opcByte w ≠ 0x20#8)
    (hrst : opcByte w ≠ 0xFF#8) : actsInHalted op = false := by
  rw [Bool.eq_false_iff, ne_eq, actsInHalted_iff, ← hbyte]
  exact not_or.mpr ⟨hrdreg, hrst⟩

/-- Settles O14, by what the decoder answers: each of the three branches of the dispatch ends at the HALTED gate. -/
theorem haltedIgnoresOtherWords : Obligations.HaltedIgnoresOtherWords := by
  unfold Obligations.HaltedIgnoresOtherWords
  intro s w rest hport hhalt hrdreg hrst
  cases hdecode : decode w with
  | cmd i =>
    have hignored := actsInHalted_eq_false (opcByte_of_decode hdecode) hrdreg hrst
    exact (stepRunsDecodedCommand s w rest i hport hdecode).trans (exec_of_halted hhalt hignored)
  | illegal =>
    have hstep : step s = rejectIllegal { s with pending := rest } := by
      simp only [step, acceptEvent_of_pending hport, hdecode]
    exact hstep.trans (rejectIllegal_of_halted hhalt)
  | reserved op =>
    have hignored := actsInHalted_eq_false ((decode_eq_reserved_iff w op).mp hdecode).1 hrdreg hrst
    have hstep : step s = rejectReserved op { s with pending := rest } := by
      simp only [step, acceptEvent_of_pending hport, hdecode]
    exact hstep.trans (rejectReserved_of_halted hhalt hignored)

/-! ### NOP and the latches -/

/-- Settles O23. -/
theorem nopChangesNothing : Obligations.NopChangesNothing := by
  unfold Obligations.NopChangesNothing
  exact exec_nop_eq

/-- R212: outside HALTED SETIN writes the clamped sample. -/
theorem exec_setin_of_not_halted {s : State} (hhalt : s.halt = false) (sel : InputSel) (val : BitVec 16) :
    exec (.setin sel val) s = .next (writeInput sel (clampSample config val) s) := by
  rw [exec_setin_eq, if_neg (Bool.eq_false_iff.mp hhalt)]

/-- R22: a latch write leaves everything but the latches as it was. -/
theorem writeInput_frame (sel : InputSel) (v : Sample) (s : State) :
    { writeInput sel v s with in0 := s.in0, in1 := s.in1, in2 := s.in2, in3 := s.in3 } = s := by
  cases sel <;> rfl

/-- Settles O24: the latch that SETIN writes reads the clamped sample, and a latch write has its frame. -/
theorem setinLoadsOneClampedLatch : Obligations.SetinLoadsOneClampedLatch := by
  unfold Obligations.SetinLoadsOneClampedLatch
  intro s sel val hhalt
  refine ⟨_, exec_setin_of_not_halted hhalt sel val, ?_, fun other hother => ?_, writeInput_frame sel _ s⟩
  · rw [readInput_writeInput_same, clampSample_toNat]
  · exact readInput_writeInput_other sel other _ s hother

/-- R213: outside HALTED SETTL replaces the low half of the clock. -/
theorem exec_settl_of_not_halted {s : State} (hhalt : s.halt = false) (val : BitVec 16) :
    exec (.settl val) s = .next { s with now := withLowHalf s.now val } := by
  rw [exec_settl_eq, if_neg (Bool.eq_false_iff.mp hhalt)]

/-- R214: outside HALTED SETTH replaces the high half of the clock. -/
theorem exec_setth_of_not_halted {s : State} (hhalt : s.halt = false) (val : BitVec 16) :
    exec (.setth val) s = .next { s with now := withHighHalf s.now val } := by
  rw [exec_setth_eq, if_neg (Bool.eq_false_iff.mp hhalt)]

/-- Settles O25: each command replaces its half of the clock, read as a number. -/
theorem clockHalvesAreLoadedApart : Obligations.ClockHalvesAreLoadedApart := by
  unfold Obligations.ClockHalvesAreLoadedApart
  intro s val hhalt
  exact ⟨⟨_, exec_settl_of_not_halted hhalt val, withLowHalf_toNat s.now val, rfl⟩,
    ⟨_, exec_setth_of_not_halted hhalt val, withHighHalf_toNat s.now val, rfl⟩⟩

/-! ### RDREG -/

/-- Settles O21. -/
theorem rdregReadsMappedIndex : Obligations.RdregReadsMappedIndex := by
  unfold Obligations.RdregReadsMappedIndex
  exact fun _ _ _ hread => exec_rdreg_of_readIndex hread

/-! ### The run state -/

/-- R220: START in IDLE takes the run state that the sink decides. -/
theorem exec_start_of_idle {s : State} (hrun : s.run = false) (hhalt : s.halt = false) (sinkOk : Bool) :
    exec (.start sinkOk) s = if sinkOk = true then .next { s with run := true } else .next { s with halt := true } := by
  rw [exec_start_eq, if_neg (Bool.eq_false_iff.mp hhalt), if_neg (Bool.eq_false_iff.mp hrun)]

/-- Settles O26. -/
theorem startLeavesIdle : Obligations.StartLeavesIdle := by
  unfold Obligations.StartLeavesIdle
  exact fun s hrun hhalt => ⟨exec_start_of_idle hrun hhalt true, exec_start_of_idle hrun hhalt false⟩

/-- R220: START in RUNNING records BAD_STATE, whatever the sink. -/
theorem exec_start_of_running {s : State} (h : Running s) (sinkOk : Bool) :
    exec (.start sinkOk) s = .next (recorded 3#3 s) := by
  obtain ⟨hrun, hhalt⟩ := h
  rw [exec_start_eq, if_neg (Bool.eq_false_iff.mp hhalt), if_pos hrun]

/-- R215: TICK in IDLE records BAD_STATE. -/
theorem exec_tick_of_idle {s : State} (hrun : s.run = false) (hhalt : s.halt = false) :
    exec .tick s = .next (recorded 3#3 s) := by
  have hgate : exec .tick s = runTick s := unlessHalted_of_not_halted hhalt runTick
  rw [hgate, runTick, if_neg (Bool.eq_false_iff.mp hrun), raiseError_eq_recorded]
  rfl

/-- Settles O27: both commands record code 3, and `recorded` keeps the first code. -/
theorem wrongRunStateRecordsCodeThree : Obligations.WrongRunStateRecordsCodeThree := by
  unfold Obligations.WrongRunStateRecordsCodeThree
  exact fun s hhalt =>
    ⟨fun hrun => exec_tick_of_idle hrun hhalt, fun hrun sinkOk => exec_start_of_running ⟨hrun, hhalt⟩ sinkOk⟩

/-! ### Clearing and reset -/

/-- Settles O28: outside HALTED the gate passes, and CLRERR clears the record. -/
theorem clrerrClearsTheRecord : Obligations.ClrerrClearsTheRecord := by
  unfold Obligations.ClrerrClearsTheRecord
  intro s hhalt
  rw [exec_clrerr_eq, if_neg (Bool.eq_false_iff.mp hhalt), clearError]

/-- RST answers the block's reset; no gate stands before it (R210, R222). -/
theorem exec_rst_eq (s : State) : exec .rst s = .next (blockReset s) := rfl

/-- Settles O29: RST is the block's reset. -/
theorem rstResetsEveryElement : Obligations.RstResetsEveryElement := by
  unfold Obligations.RstResetsEveryElement
  intro s
  rw [exec_rst_eq, blockReset_eq]

end Sys2Proof.Machine
end

section
/-! Proofs of the statements on the errors and the run states (60_exceptions.md): the relay lines outside RUNNING (R259,
R283), the sticky error record (R253), and the block between commands (R266). -/

namespace Sys2Proof.Machine

/-! ### The relay lines outside RUNNING -/

/-- TICK moves a relay line in RUNNING alone and stays there (R215), START with SINK_OK = 1 enters RUNNING (R220), and a
reset turns the lines off (R283); no other command moves a line or leaves RUNNING. -/
theorem CommandEffect.keeps_relaysOff {i : Instr} {s t : State} (h : CommandEffect s i t)
    (hs : RelaysOffUnlessRunning s) : RelaysOffUnlessRunning t := by
  cases h with
  | writesInputs | recordsError | clearsError | halts => exact hs
  | starts => exact fun hidle => absurd hidle (by simp)
  | resets => exact fun _ => rfl
  | ticks hrun htick =>
    obtain ⟨-, -, hkept, -⟩ := tickBody_frame htick
    exact fun hidle => absurd (hkept.trans hrun) (Bool.eq_false_iff.mp hidle)

/-- Settles O55, by what a step can do: holding and rejecting a word move no relay line and not `RUN`, a reset turns
the lines off, and each effect of a command keeps them off. -/
theorem relaysStayOffUnlessRunning : Obligations.RelaysStayOffUnlessRunning := by
  unfold Obligations.RelaysStayOffUnlessRunning
  intro s t hs h
  rcases step_cases h with ⟨-, rfl⟩ | ⟨rest, -, rfl⟩ | ⟨w, rest, i, -, -, hexec⟩ | ⟨w, rest, -, hrejected, -⟩
  · exact hs
  · exact fun _ => rfl
  · exact (effect_of_exec hexec).keeps_relaysOff hs
  · rcases hrejected with rfl | ⟨code, -, rfl⟩ <;> exact hs

/-! ### The sticky error record -/

/-- `ERR` is set and the code is the one that stood there. -/
def HoldsRecord (s t : State) : Prop := t.err = true ∧ t.errCode = s.errCode

/-- R253: a set record takes no second error. -/
theorem holdsRecord_recorded {s : State} (h : s.err = true) (code : BitVec 3) : HoldsRecord s (recorded code s) :=
  ⟨recorded_err code s, by rw [recorded_errCode, if_pos h]⟩

/-- Of the commands, CLRERR and RST alone end a set record (R221, R253). -/
theorem CommandEffect.holdsRecord {i : Instr} {s t : State} (h : CommandEffect s i t) (herr : s.err = true)
    (hclrerr : i ≠ .clrerr) (hrst : i ≠ .rst) : HoldsRecord s t := by
  cases h with
  | writesInputs | starts | halts => exact ⟨herr, rfl⟩
  | recordsError code rdata => exact holdsRecord_recorded (s := { s with rdata := rdata }) herr code
  | clearsError => exact absurd rfl hclrerr
  | resets => exact absurd rfl hrst
  | ticks hrun htick =>
    obtain ⟨-, -, -, -, hkept, hcode, -⟩ := tickBody_frame htick
    exact ⟨hkept.trans herr, hcode⟩

/-- CLRERR changes nothing in HALTED, and clears the record elsewhere (R210, R221). -/
theorem clrerr_cases {s t : State} (h : exec .clrerr s = .next t) :
    (s.halt = true ∧ t = s) ∨ (s.halt = false ∧ t = clearError s) :=
  (unlessHalted_cases (act := fun s => .next (clearError s)) h).imp_right fun ⟨hhalt, hclear⟩ =>
    ⟨hhalt, (Host.Outcome.next.inj hclear).symm⟩

/-- Settles O31, by what a step can do: of the commands only CLRERR and RST end a set record, each has one word, and a
rejected word finds the record set. -/
theorem errorRecordIsSticky : Obligations.ErrorRecordIsSticky := by
  unfold Obligations.ErrorRecordIsSticky
  intro s t h herr
  rcases step_cases h with ⟨-, rfl⟩ | ⟨rest, hport, -⟩ | ⟨w, rest, i, hport, hdecode, hexec⟩ |
    ⟨w, rest, -, hrejected, -⟩
  · exact .inl ⟨herr, rfl⟩
  · exact .inr (.inl (.inl (by rw [hport, List.head?_cons])))
  · by_cases hrst : i = .rst
    · subst hrst
      exact .inr (.inl (.inr (by rw [hport, word_of_decode_rst hdecode, List.head?_cons])))
    by_cases hclrerr : i = .clrerr
    · subst hclrerr
      rcases clrerr_cases hexec with ⟨-, rfl⟩ | ⟨hhalt, rfl⟩
      · exact .inl ⟨herr, rfl⟩
      · have hword : w = 0x31000000#32 := (encodeOfDecodeIsTheWord w .clrerr hdecode).symm
        exact .inr (.inr ⟨hhalt, by rw [hport, hword, List.head?_cons], rfl, rfl⟩)
    · exact .inl ((effect_of_exec hexec).holdsRecord herr hclrerr hrst)
  · left
    rcases hrejected with rfl | ⟨code, -, rfl⟩
    · exact ⟨herr, rfl⟩
    · exact holdsRecord_recorded (s := { s with pending := rest }) herr code

/-! ### Between commands -/

/-- With nothing on the port there is no event to accept (assumption 1). -/
theorem acceptEvent_of_nil {s : State} (h : s.pending = []) : acceptEvent s = none := by
  simp only [acceptEvent, h]

/-- Settles O10: without an event the step answers its own state. -/
theorem stepHoldsBetweenCommands : Obligations.StepHoldsBetweenCommands := by
  unfold Obligations.StepHoldsBetweenCommands
  intro s hport
  rw [step, acceptEvent_of_nil hport]

end Sys2Proof.Machine
end

section
/-! Proofs of the statements on reset and hazards (70_reset_and_hazards.md): the two reset sources (R280), the state
after reset (R281), a second TICK at the same time (R287), and a clock that steps back (R288). -/

namespace Sys2Proof.Machine

/-! ### The two reset sources -/

/-- R280: `RST_N` goes around the decoder and gives the reset state. -/
theorem step_of_resetN {s : State} {rest : List HostEvent} (h : s.pending = .resetN :: rest) :
    step s = .next { State.reset with pending := rest } := by
  have haccept := acceptEvent_of_pending h
  simp only [step, haccept, hardwareReset_eq]

/-- R280: the RST command goes through the decoder and gives the reset state. -/
theorem step_of_rst {s : State} {rest : List HostEvent} (h : s.pending = .command (encode .rst) :: rest) :
    step s = .next { State.reset with pending := rest } := by
  rw [step_encode h, exec_rst_eq, blockReset_eq]

/-- Settles O15: both sources end in the block's reset. -/
theorem bothResetSourcesAgree : Obligations.BothResetSourcesAgree := by
  unfold Obligations.BothResetSourcesAgree
  exact fun s rest => ⟨step_of_resetN rfl, step_of_rst rfl⟩

/-! ### The state after reset -/

@[simp] theorem burnerOf_reset (c : Chan) : burnerOf c State.reset = Burner.zero := by cases c <;> rfl

@[simp] theorem filterOf_reset (f : FilterId) : filterOf f State.reset = RingFilter.zero := by cases f <;> rfl

@[simp] theorem readInput_reset (sel : InputSel) : readInput sel State.reset = 0#12 := by cases sel <;> rfl

/-- R281: every slot of a filter is 0 after reset. -/
theorem zero_slot (k : Fin config.nSamples) : (RingFilter.zero : RingFilter config).buf[k.val] = 0#12 :=
  Vector.getElem_replicate k.isLt

/-- R281: every register reads 0 after reset. -/
theorem regRead_reset (r : Reg) : regRead r State.reset = 0#32 := by
  cases r with
  | input sel => simp only [regRead, readInput_reset, BitVec.setWidth_zero]
  | cv f | sum f | cur f =>
    rw [regRead, filterOf_reset]
    rfl
  | duty c | prevDuty c | relay c | lastT c =>
    rw [regRead, burnerOf_reset]
    rfl
  | buf f k =>
    rw [regRead, filterOf_reset]
    exact congrArg (BitVec.setWidth 32) (zero_slot k)
  | _ => rfl

/-- Settles O16: the registers read 0, the elements without an index are 0, and the zero filter and the zero setpoint
meet the invariants. -/
theorem resetLeavesEveryElementZero : Obligations.ResetLeavesEveryElementZero := by
  unfold Obligations.ResetLeavesEveryElementZero
  have hsum : ∀ f, (filterOf f State.reset).sum.toNat = slotSum (filterOf f State.reset) := fun f => by
    rw [filterOf_reset]
    obtain ⟨-, hzero, -⟩ := filterLegal_zero
    exact hzero
  obtain ⟨hoff, -, -⟩ := ovenMode_config State.reset.oven.sp
  exact ⟨regRead_reset, reset_rdata, reset_run, reset_halt, reset_err, reset_errCode, rfl, hsum, (hoff.mpr rfl).symm,
    rfl⟩

/-! ### A second TICK at the same time -/

/-- FILTER_UPDATE leaves the write cursor on a slot (R26, R101). -/
theorem filterUpdate_cur_lt {x : Sample} {f g : RingFilter config} (h : filterUpdate config x f = some g) :
    g.cur.toNat < 10 := by
  rw [filterUpdate_cur h]
  exact Nat.mod_lt _ (by decide)

theorem burnerTick_cur_lt {t pos : Time config} {x : Sample} {b b' : Burner config}
    (h : burnerTick config t pos x b = some b') : b'.filter.cur.toNat < 10 := by
  obtain ⟨f, hf, rfl⟩ := burnerTick_eq_some.mp h
  rw [schedDecide_filter]
  exact filterUpdate_cur_lt hf

theorem ovenTick_cur_lt {t : Time config} {pot x : Sample} {o o' : Oven config}
    (h : ovenTick config t pot x o = some o') : o'.filter.cur.toNat < 10 := by
  obtain ⟨f, hf, rfl⟩ := ovenTick_eq_some.mp h
  exact filterUpdate_cur_lt hf

/-- After a tick the write cursors name slots (R26). -/
theorem tickBody_cursorsLegal {s t : State} (h : tickBody s = some t) : CursorsLegal t :=
  ⟨burnerTick_cur_lt (tickBody_runs_burnerTick h .b0), burnerTick_cur_lt (tickBody_runs_burnerTick h .b1),
    ovenTick_cur_lt (tickBody_runs_ovenTick h)⟩

/-- A TICK in RUNNING can be followed by a second one (R215, R216). -/
theorem tickBody_twice {s : State} (hrunning : Running s) (hcursors : CursorsLegal s) :
    ∃ t u, tickBody s = some t ∧ tickBody t = some u ∧ exec .tick s = .next t ∧ exec .tick t = .next u := by
  obtain ⟨t, hexec, htick⟩ := exec_tick_runs_tickBody hrunning hcursors
  obtain ⟨-, -, hrun, hhalt, -⟩ := tickBody_frame htick
  have hstill : Running t := ⟨hrun.trans hrunning.1, hhalt.trans hrunning.2⟩
  obtain ⟨u, hexec', htick'⟩ := exec_tick_runs_tickBody hstill (tickBody_cursorsLegal htick)
  exact ⟨t, u, htick, htick', hexec, hexec'⟩

/-- R287: a tick at the time of a relay's timestamp makes no transition of that relay. -/
theorem tickBody_keeps_relay_of_lastT {s t : State} (h : tickBody s = some t) {c : Chan}
    (hlast : (burnerOf c s).lastT = s.now) : (burnerOf c t).relay = (burnerOf c s).relay := by
  rcases tickBody_relay_cases h c with ⟨hrelay, -⟩ | ⟨-, helapsed, -⟩
  · exact hrelay
  · rw [hlast, tdiff_self] at helapsed
    omega

/-- R287: after a change of the bake relay, a second tick of the oven at the same time and potentiometer keeps it. Off
and Broil force the same state again; in Bake mode the interval since the change is 0. -/
theorem ovenTick_keeps_changed_bake {t : Time config} {pot x y : Sample} {o o' o'' : Oven config}
    (h : ovenTick config t pot x o = some o') (h' : ovenTick config t pot y o' = some o'')
    (hchange : o'.bake ≠ o.bake) : o''.bake = o'.bake := by
  obtain ⟨-, hsp, hmode⟩ := ovenTick_reads_inputs h
  obtain ⟨-, hsp', hmode'⟩ := ovenTick_reads_inputs h'
  have hsame : o''.mode = o'.mode := by rw [hmode, hsp, hmode', hsp']
  obtain ⟨hoff, -, hbroil⟩ := ovenTick_forces h
  obtain ⟨hoff', -, hbroil'⟩ := ovenTick_forces h'
  cases hm : o''.mode with
  | off => rw [(hoff' hm).1, (hoff (hsame.symm.trans hm)).1]
  | broil => rw [(hbroil' hm).1, (hbroil (hsame.symm.trans hm)).1]
  | bake =>
    have hlast : o'.lastT = t := by rw [ovenTick_lastT h, if_pos hchange]
    refine (ovenTick_debounces_bake h' hm).trans (if_neg fun ⟨_, helapsed⟩ => ?_)
    rw [hlast, tdiff_self] at helapsed
    exact absurd helapsed (by decide)

/-- Settles O47: the first tick's change writes the tick's time to the timestamp, and the second tick runs at that
time on the same potentiometer latch. -/
theorem repeatedTimeBlocksTransitions : Obligations.RepeatedTimeBlocksTransitions := by
  unfold Obligations.RepeatedTimeBlocksTransitions
  intro s hrunning hcursors
  obtain ⟨t, u, htick, htick', hexec, hexec'⟩ := tickBody_twice hrunning hcursors
  obtain ⟨hnow, hinputs, -⟩ := tickBody_frame htick
  refine ⟨t, u, hexec, hexec', fun c hchange => ?_, fun hchange => ?_⟩
  · obtain ⟨-, -, hlast⟩ := (tickBody_relay_cases htick c).resolve_left fun hkeeps => hchange hkeeps.1
    exact tickBody_keeps_relay_of_lastT htick' (hlast.trans hnow.symm)
  · have hoven := tickBody_runs_ovenTick htick'
    have hpot : t.in2 = s.in2 := hinputs .ovenPot
    rw [hnow, hpot] at hoven
    exact ovenTick_keeps_changed_bake (tickBody_runs_ovenTick htick) hoven hchange

/-! ### A clock that steps back -/

/-- R288: modulo the clock, a step back by `d` reads as `2^32 - d` elapsed (R11). -/
theorem tdiff_of_step_back (start : Time config) {d : Nat} (hpos : 0 < d) (hd : d < 4294967296) :
    tdiff (start - BitVec.ofNat _ d) start = 4294967296 - d := by
  have hstep : start - BitVec.ofNat _ d - start = -BitVec.ofNat config.clockBits d :=
    sub_sub_cancel_left start _
  have hwidth : 2 ^ config.clockBits = 4294967296 := rfl
  rw [tdiff, hstep, BitVec.toNat_neg, BitVec.toNat_ofNat, hwidth]
  omega

/-- Settles O46: the step back reads as more than a cycle elapsed, so the tick restarts the cycle. -/
theorem backwardClockRestartsCycle : Obligations.BackwardClockRestartsCycle := by
  unfold Obligations.BackwardClockRestartsCycle
  intro s d hrunning hcursors hpos hd hback
  have helapsed := tdiff_of_step_back s.cycStart hpos (by omega)
  rw [← hback] at helapsed
  obtain ⟨t, hexec, hrestarts, -⟩ := tickAdvancesTheCycle s hrunning hcursors
  exact ⟨t, hexec, hrestarts (show 30000 < tdiff s.now s.cycStart by omega)⟩

end Sys2Proof.Machine
end
